-- ==== Sys2Proof/Word.lean ====
section
/-! DEFINITION. The widths of QRE's values: every bus word is 32 bits (spec/20_memory.md R60), every codeword,
coefficient and table entry 8 bits (R63), every word address 17 bits (R60). -/

namespace Sys2Proof

/-- A 32-bit bus word, scalar register or command word (R24, R60, R90). -/
abbrev Word := BitVec 32

/-- An 8-bit entry: a codeword, a coefficient, an element of GF(256) (R44 to R46, R110). -/
abbrev Byte := BitVec 8

/-- A 17-bit word address of the host bus (R60). -/
abbrev Addr := BitVec 17

end Sys2Proof
end

