-- ==== Sys2Proof/Syntax.lean ====
section
/-! DEFINITION. The sixteen commands of spec/30_encoding.md R96, one constructor per row of spec/opcode_table.json.
Register fields are `Fin` (their bound is the field's width); the mask number and the immediate are `Nat`, bounded
by `Instr.WellFormed` (log 14). -/

namespace Sys2Proof

/-- A command with its operands, in the order of R101. `rd`, `ra`, `rb` name X registers, `pd`, `pa`, `pb`
polynomial registers (R92, R94). -/
inductive Instr where
  /-- no operation (R113) -/
  | nop
  /-- field exponential (R114) -/
  | gexp (rd ra : Fin 8)
  /-- field logarithm (R115) -/
  | glog (rd ra : Fin 8)
  /-- field product (R117) -/
  | gfmul (rd ra rb : Fin 8)
  /-- strip leading zeros, then append `shift` zeros (R133) -/
  | pnorm (pd pa : Fin 4) (shift : Nat)
  /-- polynomial product (R135) -/
  | pmul (pd pa pb : Fin 4)
  /-- polynomial remainder (R137) -/
  | pmod (pd pa pb : Fin 4)
  /-- the Reed–Solomon generator of degree `n` (R140) -/
  | rsgen (pd : Fin 4) (n : Nat)
  /-- Reed–Solomon encode and interleave one symbol (R156) -/
  | rsenc
  /-- format-information word (R178) -/
  | bchfmt (rd ra : Fin 8)
  /-- version-information word (R179) -/
  | bchver (rd ra : Fin 8)
  /-- build the function patterns (R201) -/
  | minit
  /-- place the codeword stream with a fixed mask (R215) -/
  | mplace
  /-- score the current matrix (R238) -/
  | mscore (rd : Fin 8)
  /-- build the complete symbol (R242) -/
  | mbuild
  /-- evaluate mask predicate `m` (R205) -/
  | mpred (rd ra rb : Fin 8) (m : Nat)
  deriving DecidableEq, Repr

end Sys2Proof
end

