-- ==== Sys2Proof/WellFormed.lean ====
section
/-! DEFINITION. The operand ranges that the types of Sys2Proof/Syntax.lean do not already carry
(spec/30_encoding.md R93, R94). -/

namespace Sys2Proof

/-- An operand fits its field: `imm8` is an unsigned 8-bit immediate (R94), `m` a 3-bit mask number (R93). -/
def Instr.wellFormed : Instr → Bool
  | .pnorm _ _ shift => shift < 256
  | .rsgen _ n => n < 256
  | .mpred _ _ _ m => m < 8
  | .nop | .gexp .. | .glog .. | .gfmul .. | .pmul .. | .pmod .. | .rsenc | .bchfmt .. | .bchver ..
  | .minit | .mplace | .mscore .. | .mbuild => true

/-- The commands the encoding can express. -/
abbrev Instr.WellFormed (i : Instr) : Prop := i.wellFormed = true

end Sys2Proof
end

