-- ==== Sys2Proof/Decode.lean ====
section
/-! DEFINITION. The decoder of spec/30_encoding.md R95 to R100, total on every 32-bit word and rejecting by name, and
the encoder written from the same format tables (R91 to R94). -/

namespace Sys2Proof

/-- Why a word is no command (R98). Both reasons execute as the fault ILLEGAL_COMMAND. -/
inductive Reject where
  /-- the opcode is one of the 48 of R97 -/
  | reservedOpcode
  /-- a "must be 0" field, or an operand field the command does not use, holds a non-zero bit -/
  | nonzeroField
  deriving DecidableEq, Repr

/-- `w[lo+len-1 : lo]`, the field of `len` bits from bit `lo`, as an unsigned number (R12). -/
def field (w : Word) (lo len : Nat) : Nat := w.toNat / 2 ^ lo % 2 ^ len

/-- The opcode, bits 31:26 (R90). -/
def opcodeOf (w : Word) : Nat := field w 26 6

/-- An X register index, the 3-bit field from bit `lo` (R92). -/
def xField (w : Word) (lo : Nat) : Fin 8 := Fin.ofNat 8 (field w lo 3)

/-- A polynomial register index, the 2-bit field from bit `lo` (R94). -/
def pField (w : Word) (lo : Nat) : Fin 4 := Fin.ofNat 4 (field w lo 2)

/-- A command whose bits listed in `zeros` (pairs of lowest bit and length) must be 0 (R98). -/
def strict (w : Word) (zeros : List (Nat × Nat)) (i : Instr) : Except Reject Instr :=
  if zeros.all fun z => field w z.1 z.2 = 0 then .ok i else .error .nonzeroField

/-- The decoder of R100. Operand fields as in R95; what must be 0 in each row as in the "used fields" column of R96. -/
def decode (w : Word) : Except Reject Instr :=
  match opcodeOf w with
  | 0x00 => strict w [(0, 26)] .nop
  | 0x01 => strict w [(0, 20)] (.gexp (xField w 23) (xField w 20))
  | 0x02 => strict w [(0, 20)] (.glog (xField w 23) (xField w 20))
  | 0x03 => strict w [(0, 17)] (.gfmul (xField w 23) (xField w 20) (xField w 17))
  | 0x08 => strict w [(0, 12), (20, 2)] (.pnorm (pField w 24) (pField w 22) (field w 12 8))
  | 0x09 => strict w [(0, 20)] (.pmul (pField w 24) (pField w 22) (pField w 20))
  | 0x0A => strict w [(0, 20)] (.pmod (pField w 24) (pField w 22) (pField w 20))
  | 0x0B => strict w [(0, 12), (20, 4)] (.rsgen (pField w 24) (field w 12 8))
  | 0x10 => strict w [(0, 26)] .rsenc
  | 0x18 => strict w [(0, 20)] (.bchfmt (xField w 23) (xField w 20))
  | 0x19 => strict w [(0, 20)] (.bchver (xField w 23) (xField w 20))
  | 0x20 => strict w [(0, 26)] .minit
  | 0x21 => strict w [(0, 26)] .mplace
  | 0x22 => strict w [(0, 23)] (.mscore (xField w 23))
  | 0x23 => strict w [(0, 26)] .mbuild
  | 0x24 => strict w [(0, 14)] (.mpred (xField w 23) (xField w 20) (xField w 17) (field w 14 3))
  | _ => .error .reservedOpcode

/-- Format S (R91). -/
def encodeS (op : Nat) : Word := BitVec.ofNat 32 (op * 2 ^ 26)

/-- Format R (R92). -/
def encodeR (op : Nat) (rd ra rb : Fin 8) : Word :=
  BitVec.ofNat 32 (op * 2 ^ 26 + rd.val * 2 ^ 23 + ra.val * 2 ^ 20 + rb.val * 2 ^ 17)

/-- Format I (R93). -/
def encodeI (op : Nat) (rd ra rb : Fin 8) (m : Nat) : Word :=
  BitVec.ofNat 32 (op * 2 ^ 26 + rd.val * 2 ^ 23 + ra.val * 2 ^ 20 + rb.val * 2 ^ 17 + m * 2 ^ 14)

/-- Format P (R94). -/
def encodeP (op : Nat) (pd pa pb : Fin 4) (imm : Nat) : Word :=
  BitVec.ofNat 32 (op * 2 ^ 26 + pd.val * 2 ^ 24 + pa.val * 2 ^ 22 + pb.val * 2 ^ 20 + imm * 2 ^ 12)

/-- The word of a command: its format with the unused fields 0 (R91 to R96). -/
def encode : Instr → Word
  | .nop => encodeS 0x00
  | .gexp rd ra => encodeR 0x01 rd ra 0
  | .glog rd ra => encodeR 0x02 rd ra 0
  | .gfmul rd ra rb => encodeR 0x03 rd ra rb
  | .pnorm pd pa shift => encodeP 0x08 pd pa 0 shift
  | .pmul pd pa pb => encodeP 0x09 pd pa pb 0
  | .pmod pd pa pb => encodeP 0x0A pd pa pb 0
  | .rsgen pd n => encodeP 0x0B pd 0 0 n
  | .rsenc => encodeS 0x10
  | .bchfmt rd ra => encodeR 0x18 rd ra 0
  | .bchver rd ra => encodeR 0x19 rd ra 0
  | .minit => encodeS 0x20
  | .mplace => encodeS 0x21
  | .mscore rd => encodeR 0x22 rd 0 0
  | .mbuild => encodeS 0x23
  | .mpred rd ra rb m => encodeI 0x24 rd ra rb m

/-- The command the decoder reads from the `nbits` low bits of `w`, the bits above being 0. Bit 0 of the opcode table
is bit 0 of the command word (R12, R90), and QRE has no byte order (spec/20_memory.md R72), so the word is given to the
decoder as it is. -/
def decodeTableWord (nbits w : Nat) : Option Instr :=
  match decode (BitVec.ofNat 32 (w % 2 ^ nbits)) with
  | .ok i => some i
  | .error _ => none

end Sys2Proof
end

