-- ==== Sys2Proof/Config.lean ====
section
/-! DEFINITION. What the implementation fixes (spec/00_scope.md R10) and the free values: constants with no body, for
what the spec leaves open. No proof can see what a free value is, so a claim holds whatever it is. The tables that R10
lets a model take as an argument stand in Sys2Proof/Machine/Tables.lean (log 10). -/

namespace Sys2Proof.Config

/-- `MAXP`, coefficients per polynomial register (R10). -/
def maxPoly : Nat := 256

/-- `NMAX`, the side of the MATRIX array (R10). -/
def maxSide : Nat := 177

/-- FREE VALUE. What entry `addr` of the byte arrays (PR, DATA, CW), or a MATRIX word, holds after reset number
`epoch` until something writes it: the spec gives none (R50, R51). DESIGN CHOICE, logs 2 and 3. -/
opaque powerOn (epoch addr : Nat) : Byte

/-- FREE VALUE. What register `X_i` holds after reset event number `epoch` inside a run (R25, R50, R51).
DESIGN CHOICE, log 1. -/
opaque resetX (epoch i : Nat) : Word

/-- FREE VALUE. What a read of command-written state returns while BUSY = 1, on draw number `draw`
(spec/20_memory.md R67). DESIGN CHOICE, log 4. -/
opaque busyRead (draw : Nat) : Word

/-- FREE VALUE. `LATENCY(cmd) - 1` for the command accepted on draw number `draw`
(spec/70_reset_and_hazards.md R305: finite, at least 1, otherwise unspecified). DESIGN CHOICE, log 5. -/
opaque extraLatency (draw : Nat) (cmd : Word) : Nat

end Sys2Proof.Config
end

