-- ==== Sys2Proof/Machine/State.lean ====
section
/-! DEFINITION. The state of QRE as plain data (spec/10_state.md), the reasons a step can stop, and the state after
reset (R50). The step function and every operation stand in the other files of this folder. -/

namespace Sys2Proof.Machine

/-- The fault codes of spec/60_exceptions.md R260. The codes 7..15 are never written, so they have no constructor. -/
inductive FaultCode where
  | none
  | invalidParameter
  | invalidData
  | dataOverflow
  | internal
  | illegalCommand
  | sequence
  deriving DecidableEq, Repr

/-- The three states of a matrix cell (R47; conflict C8: SET is DARK). The code 3 is never stored. -/
inductive Shade where
  | unset
  | light
  | dark
  deriving DecidableEq, Repr

/-- A matrix cell: its state and its `func` flag (R47). -/
structure MCell where
  shade : Shade
  func : Bool
  deriving DecidableEq, Repr

/-- UNSET with `func = 0`: what a cell outside the symbol holds (R47). -/
def MCell.blank : MCell := ⟨.unset, false⟩

/-- The MATRIX array by rows, then columns; a cell not listed is `MCell.blank` (R47, log 12). -/
abbrev Matrix := List (List MCell)

/-- The byte arrays PR, DATA and CW (R44 to R46): pairs of word address and byte, addresses strictly rising. An
address not listed has not been written since reset (log 2). -/
abbrev Memory := List Host.Cell

/-- What happens on the host's side in one clock cycle (spec/20_memory.md R60; R21, R290 for reset). -/
inductive BusOp where
  /-- no access -/
  | idle
  /-- a read of one word -/
  | read (a : Addr)
  /-- a write of one word -/
  | write (a : Addr) (w : Word)
  /-- the reset input is asserted -/
  | reset
  deriving DecidableEq, Repr

/-- The whole state. Field names follow the registers of R28; INVENTORY.md lists each with its rule. -/
structure State where
  /-- CTRL.IE (R29) -/
  ie : Bool
  /-- STATUS.DONE (R30) -/
  done : Bool
  /-- STATUS.ERR (R30) -/
  err : Bool
  /-- STATUS.HAZ (R30) -/
  haz : Bool
  /-- STATUS.ERRCODE (R30) -/
  errcode : FaultCode
  /-- PEND, the pending command word; STATUS.BUSY is 1 exactly when there is one (R23) -/
  pend : Option Word
  /-- the CMD read-back (R31) -/
  cmdRead : Word
  /-- CFG.VERSION (R32) -/
  version : BitVec 6
  /-- CFG.EC, the internal code (R32) -/
  ec : BitVec 2
  /-- CFG.MASKSEL (R32) -/
  maskSel : BitVec 4
  /-- CFG.FILL (R32) -/
  fill : Bool
  /-- DLEN (R34) -/
  dlen : BitVec 13
  /-- CWLEN (R35) -/
  cwlen : BitVec 13
  /-- MSTAT.MAT_VER (R36) -/
  matVer : BitVec 6
  /-- MSTAT.PLACED (R36) -/
  placed : Bool
  /-- RMASK.MASK (R37) -/
  maskUsed : BitVec 3
  /-- RMASK.VALID (R37) -/
  maskValid : Bool
  /-- FMTW (R38) -/
  fmtw : BitVec 15
  /-- VERW (R38) -/
  verw : BitVec 18
  /-- PENALTY (R38) -/
  penalty : Word
  /-- SCORE0..SCORE7 (R39) -/
  score : Vector Word 8
  /-- PLEN0..PLEN3 (R39) -/
  plen : Vector (BitVec 9) 4
  /-- X0..X7 (R24) -/
  x : Vector Word 8
  /-- PR, DATA and CW (R44 to R46) -/
  mem : Memory
  /-- MATRIX (R47) -/
  matrix : Matrix
  /-- the read-data port of the host bus (R21): the value the last read returned (log 8) -/
  rdata : Word
  /-- MODEL'S OWN: what the host does from now on, one entry per clock cycle (log 6) -/
  inbox : List BusOp
  /-- MODEL'S OWN: clock cycles still to pass before the pending command may execute (log 5) -/
  wait : Nat
  /-- MODEL'S OWN: how many free values have been drawn (log 15) -/
  draws : Nat
  /-- MODEL'S OWN: how many reset events have happened (log 15) -/
  epoch : Nat
  deriving DecidableEq, Repr

/-- Reasons the machine could stop. There are none: QRE has no bus error (R60), no trap (R270), and a command's fault
is a completion, after which the engine goes on (R262, R267), so it is a next state (log 9). Safe. -/
inductive Fault : Type
  deriving DecidableEq, Repr

/-- Reasons the model has no meaning for an instruction. -/
inductive Refusal where
  /-- An arm of `exec` whose instruction has no meaning yet would answer this; no arm does. Safe. -/
  | notModelled (mnemonic : String)
  deriving DecidableEq, Repr

/-- The machine right after reset (R50). The unspecified state is as logs 1, 2, 3 and 8 say: X0..X7 and the read-data
port 0, no entry of PR, DATA, CW or MATRIX written. The model's own fields start empty or at 0 (log 15). -/
def State.reset : State where
  ie := false
  done := false
  err := false
  haz := false
  errcode := .none
  pend := none
  cmdRead := 0
  version := 0
  ec := 0
  maskSel := 0
  fill := false
  dlen := 0
  cwlen := 0
  matVer := 0
  placed := false
  maskUsed := 0
  maskValid := false
  fmtw := 0
  verw := 0
  penalty := 0
  score := Vector.replicate 8 0
  plen := Vector.replicate 4 0
  x := Vector.replicate 8 0
  mem := []
  matrix := []
  rdata := 0
  inbox := []
  wait := 0
  draws := 0
  epoch := 0

end Sys2Proof.Machine
end

