-- ==== Sys2Proof/Machine/Memory.lean ====
section
/-! DEFINITION. The byte arrays PR, DATA and CW as one list of (word address, byte) pairs in canonical form
(spec/10_state.md R44 to R46, spec/20_memory.md R61). -/

namespace Sys2Proof.Machine

/-- Word address of PR[0][0] (R44, R61). -/
def prBase : Nat := 0x1000

/-- Word address of DATA[0] (R45, R61). -/
def dataBase : Nat := 0x2000

/-- Word address of CW[0] (R46, R61). -/
def cwBase : Nat := 0x3000

/-- Word address of entry `i` of polynomial register `p` (R44). -/
def prAddr (p : Fin 4) (i : Nat) : Nat := prBase + 256 * p.val + i

/-- The addresses that hold a writable 8-bit entry (R61): PR, DATA and CW. -/
def isEntry (a : Nat) : Bool := (0x1000 ≤ a ∧ a < 0x1400) ∨ (0x2000 ≤ a ∧ a < 0x4000)

/-- The byte last written at an address since reset, if any. -/
def Memory.get? : Memory → Nat → Option Byte
  | [], _ => none
  | (k, b) :: m, a => if k = a then some b else Memory.get? m a

/-- Write one byte, keeping the addresses rising. -/
def Memory.set : Memory → Nat → Byte → Memory
  | [], a, b => [(a, b)]
  | (k, c) :: m, a, b =>
    if a < k then (a, b) :: (k, c) :: m else if a = k then (a, b) :: m else (k, c) :: Memory.set m a b

/-- Write a list of bytes at consecutive addresses. -/
def Memory.setList : Memory → Nat → List Byte → Memory
  | m, _, [] => m
  | m, a, b :: bs => Memory.setList (Memory.set m a b) (a + 1) bs

/-- The canonical form: addresses strictly rising, each the address of an 8-bit entry. A listed byte is never equal to
what an unlisted address reads as in the list, which is no byte at all (log 2). -/
abbrev Memory.wf (m : Memory) : Prop := m.Pairwise (fun p q => p.1 < q.1) ∧ ∀ p ∈ m, isEntry p.1 = true

end Sys2Proof.Machine
end

