-- ==== Sys2Proof/Machine/Ops.lean ====
section
/-! DEFINITION. The named operations over registers and entries, and the two completions of a command
(spec/60_exceptions.md R262, R263). QRE has no return from an exception (R271): the host clears ERR through STATUS,
which is `statusWrite` of Sys2Proof/Machine/Flags.lean. -/

namespace Sys2Proof.Machine

/-- `x[r]` (R13, R24). -/
def readX (r : Fin 8) (s : State) : Word := s.x.get r

/-- `x[r] <- v` (R13, R24). -/
def setX (r : Fin 8) (v : Word) (s : State) : State := { s with x := s.x.set r v }

/-- `PLEN[p]` as a number (R39). -/
def plenOf (p : Fin 4) (s : State) : Nat := (s.plen.get p).toNat

/-- `PLEN[p] <- n`, the low 9 bits (R39). -/
def setPlen (p : Fin 4) (n : Nat) (s : State) : State := { s with plen := s.plen.set p (BitVec.ofNat 9 n) }

/-- The 8-bit entry at a word address of PR, DATA or CW: the byte last written, else the free value it holds since
reset (R44 to R46, R51, log 2). -/
def readByte (a : Nat) (s : State) : Byte := (s.mem.get? a).getD (Config.powerOn s.epoch a)

/-- `n` entries from address `a` on. -/
def readBytes (a n : Nat) (s : State) : List Byte := (List.range n).map fun i => readByte (a + i) s

/-- Write entries from address `a` on. -/
def writeBytes (a : Nat) (bs : List Byte) (s : State) : State := { s with mem := s.mem.setList a bs }

/-- `PR[p] <- L`: the entries below `len(L)` and PLEN, the entries above keep their values (R132). -/
def setPoly (p : Fin 4) (l : List Byte) (s : State) : State := setPlen p l.length (writeBytes (prAddr p 0) l s)

/-- Success completion (R263): BUSY 0, DONE 1, ERR and ERRCODE unchanged. -/
def complete (s : State) : State := { s with pend := none, done := true }

/-- TAKING AN EXCEPTION. `raise Fault(code)` of a command started in state `s` (R262): every write of the command is
discarded, BUSY 0, DONE 1, ERR 1, ERRCODE = code. There is no trap, no vector and no saved pc (R270). -/
def takeFault (code : FaultCode) (s : State) : State :=
  { s with pend := none, done := true, err := true, errcode := code }

/-- A command that ends with a fault. -/
def raise (code : FaultCode) (s : State) : Host.Outcome State Fault Refusal := .next (takeFault code s)

/-- A command that ends with success, `s` holding its writes. -/
def retire (s : State) : Host.Outcome State Fault Refusal := .next (complete s)

end Sys2Proof.Machine
end

