-- ==== Sys2Proof/Machine/Flags.lean ====
section
/-! DEFINITION. The status flags of spec/10_state.md R27, R30, R33 as the host sees them, and the write of STATUS
(spec/20_memory.md R68). QRE has no condition codes (R27); the flags a completion writes are in
Sys2Proof/Machine/Ops.lean. -/

namespace Sys2Proof.Machine

/-- The number of a fault code (R260). -/
def FaultCode.num : FaultCode → Nat
  | .none => 0
  | .invalidParameter => 1
  | .invalidData => 2
  | .dataOverflow => 3
  | .internal => 4
  | .illegalCommand => 5
  | .sequence => 6

/-- STATUS.BUSY: a command is pending (R23, R30). -/
def busy (s : State) : Bool := s.pend.isSome

/-- The interrupt output, `CTRL.IE ∧ STATUS.DONE` at all times (R33, R268). -/
def irq (s : State) : Bool := s.ie && s.done

/-- The STATUS word (R30). -/
def statusWord (s : State) : Word :=
  BitVec.ofNat 32 ((busy s).toNat + 2 * s.done.toNat + 4 * s.err.toNat + 8 * s.haz.toNat + 256 * s.errcode.num)

/-- A write of `w` to STATUS (R68): a 1 in bit 1 clears DONE, in bit 2 ERR and ERRCODE, in bit 3 HAZ; every other bit
of `w` is ignored. -/
def statusWrite (w : Word) (s : State) : State :=
  { s with
    done := s.done && !w.getLsbD 1
    err := s.err && !w.getLsbD 2
    errcode := if w.getLsbD 2 then .none else s.errcode
    haz := s.haz && !w.getLsbD 3 }

end Sys2Proof.Machine
end

