-- ==== Sys2Proof/Machine/Operands.lean ====
section
/-! DEFINITION. Operand fetch of the commands: scalar registers as numbers and field elements, and the polynomial
operands of spec/41_poly.md R130. -/

namespace Sys2Proof.Machine

/-- `x[r]` as an unsigned number (R24). -/
def xNat (r : Fin 8) (s : State) : Nat := (readX r s).toNat

/-- The low 8 bits of `x[r]`: the field element a register holds once it is checked to be at most 255. -/
def xByte (r : Fin 8) (s : State) : Byte := (readX r s).setWidth 8

/-- The list `[PR[p][0], …, PR[p][PLEN[p]-1]]` (R44, R130), read after the checks of R130. -/
def polyOf (p : Fin 4) (s : State) : List Byte := readBytes (prAddr p 0) (plenOf p s) s

/-- The INVALID_PARAMETER check of R130: PLEN above 256. -/
def tooLong (p : Fin 4) (s : State) : Bool := plenOf p s > Config.maxPoly

/-- The INTERNAL check of R130: an empty polynomial. -/
def isEmpty (p : Fin 4) (s : State) : Bool := plenOf p s = 0

/-- CFG.VERSION as a number (R32). -/
def versionOf (s : State) : Nat := s.version.toNat

/-- A legal version is in 1..40 (R32). -/
def legalVersion (v : Nat) : Bool := 1 ≤ v ∧ v ≤ 40

end Sys2Proof.Machine
end

