-- ==== Sys2Proof/Machine/Bch.lean ====
section
/-! DEFINITION. The BCH words and the commands BCHFMT and BCHVER (spec/43_bch.md R170 to R179). -/

namespace Sys2Proof.Machine

/-- `bitlen(y) = ⌊log2 y⌋ + 1` for `y ≠ 0` (R170), and 0 for 0. -/
def bitlen (y : Nat) : Nat := if y = 0 then 0 else Nat.log2 y + 1

/-- The loop of R170; each iteration shortens `x`, so `fuel = bitlen x` iterations are enough (log 11). -/
def bchremLoop (g : Nat) : Nat → Nat → Nat
  | 0, x => x
  | fuel + 1, x =>
    if x ≠ 0 ∧ bitlen x ≥ bitlen g then bchremLoop g fuel (x ^^^ (g <<< (bitlen x - bitlen g))) else x

/-- `bchrem(x, g)`, the remainder over GF(2) (R170). -/
def bchrem (x g : Nat) : Nat := bchremLoop g (bitlen x) x

/-- The 15-bit format word of a 5-bit value (R171). -/
def bch15 (d : Nat) : Nat := ((d <<< 10) ||| bchrem (d <<< 10) 0x537) ^^^ 0x5412

/-- The two EC bits of an internal EC code (R173). -/
def ecbits (ec : Nat) : Nat := ec ^^^ 1

/-- The 5-bit format data (R172). -/
def fmtdata (ec m : Nat) : Nat := (ecbits ec <<< 3) ||| m

/-- The format word of EC code `ec` and mask `m` (R174). -/
def fmtword (ec m : Nat) : Nat := bch15 (fmtdata ec m)

/-- The 18-bit version word of a 6-bit value (R176). -/
def bch18 (v : Nat) : Nat := (v <<< 12) ||| bchrem (v <<< 12) 0x1F25

/-- BCHFMT (R178). -/
def execBchfmt (rd ra : Fin 8) (s : State) : Host.Outcome State Fault Refusal :=
  if xNat ra s > 31 then raise .invalidParameter s
  else retire (setX rd (BitVec.ofNat 32 (bch15 (xNat ra s))) s)

/-- BCHVER (R179). -/
def execBchver (rd ra : Fin 8) (s : State) : Host.Outcome State Fault Refusal :=
  if xNat ra s > 63 then raise .invalidParameter s
  else retire (setX rd (BitVec.ofNat 32 (bch18 (xNat ra s))) s)

end Sys2Proof.Machine
end

