-- ==== Sys2Proof/Machine/Tables.lean ====
section
/-! DEFINITION. The fixed tables: the EXP and LOG ROMs (spec/40_gf.md R110, R111), BLOCK_TABLE (spec/42_rs.md R150) and
ALIGN_TABLE (spec/44_matrix.md R193). The spec lets a model take the last two as arguments (spec/00_scope.md R10); this
model takes the spec's own values (log 10). Sys2Proof/Tests/Slice0.lean proves that EXP and LOG meet R110 and R111. -/

namespace Sys2Proof.Machine

/-- The EXP ROM, entry i the i-th power of 0x02 modulo 0x11D (R40, R110). -/
def expRom : List Byte :=
  [0x01, 0x02, 0x04, 0x08, 0x10, 0x20, 0x40, 0x80, 0x1D, 0x3A, 0x74, 0xE8, 0xCD, 0x87, 0x13, 0x26]
  ++ [0x4C, 0x98, 0x2D, 0x5A, 0xB4, 0x75, 0xEA, 0xC9, 0x8F, 0x03, 0x06, 0x0C, 0x18, 0x30, 0x60, 0xC0]
  ++ [0x9D, 0x27, 0x4E, 0x9C, 0x25, 0x4A, 0x94, 0x35, 0x6A, 0xD4, 0xB5, 0x77, 0xEE, 0xC1, 0x9F, 0x23]
  ++ [0x46, 0x8C, 0x05, 0x0A, 0x14, 0x28, 0x50, 0xA0, 0x5D, 0xBA, 0x69, 0xD2, 0xB9, 0x6F, 0xDE, 0xA1]
  ++ [0x5F, 0xBE, 0x61, 0xC2, 0x99, 0x2F, 0x5E, 0xBC, 0x65, 0xCA, 0x89, 0x0F, 0x1E, 0x3C, 0x78, 0xF0]
  ++ [0xFD, 0xE7, 0xD3, 0xBB, 0x6B, 0xD6, 0xB1, 0x7F, 0xFE, 0xE1, 0xDF, 0xA3, 0x5B, 0xB6, 0x71, 0xE2]
  ++ [0xD9, 0xAF, 0x43, 0x86, 0x11, 0x22, 0x44, 0x88, 0x0D, 0x1A, 0x34, 0x68, 0xD0, 0xBD, 0x67, 0xCE]
  ++ [0x81, 0x1F, 0x3E, 0x7C, 0xF8, 0xED, 0xC7, 0x93, 0x3B, 0x76, 0xEC, 0xC5, 0x97, 0x33, 0x66, 0xCC]
  ++ [0x85, 0x17, 0x2E, 0x5C, 0xB8, 0x6D, 0xDA, 0xA9, 0x4F, 0x9E, 0x21, 0x42, 0x84, 0x15, 0x2A, 0x54]
  ++ [0xA8, 0x4D, 0x9A, 0x29, 0x52, 0xA4, 0x55, 0xAA, 0x49, 0x92, 0x39, 0x72, 0xE4, 0xD5, 0xB7, 0x73]
  ++ [0xE6, 0xD1, 0xBF, 0x63, 0xC6, 0x91, 0x3F, 0x7E, 0xFC, 0xE5, 0xD7, 0xB3, 0x7B, 0xF6, 0xF1, 0xFF]
  ++ [0xE3, 0xDB, 0xAB, 0x4B, 0x96, 0x31, 0x62, 0xC4, 0x95, 0x37, 0x6E, 0xDC, 0xA5, 0x57, 0xAE, 0x41]
  ++ [0x82, 0x19, 0x32, 0x64, 0xC8, 0x8D, 0x07, 0x0E, 0x1C, 0x38, 0x70, 0xE0, 0xDD, 0xA7, 0x53, 0xA6]
  ++ [0x51, 0xA2, 0x59, 0xB2, 0x79, 0xF2, 0xF9, 0xEF, 0xC3, 0x9B, 0x2B, 0x56, 0xAC, 0x45, 0x8A, 0x09]
  ++ [0x12, 0x24, 0x48, 0x90, 0x3D, 0x7A, 0xF4, 0xF5, 0xF7, 0xF3, 0xFB, 0xEB, 0xCB, 0x8B, 0x0B, 0x16]
  ++ [0x2C, 0x58, 0xB0, 0x7D, 0xFA, 0xE9, 0xCF, 0x83, 0x1B, 0x36, 0x6C, 0xD8, 0xAD, 0x47, 0x8E, 0x01]

/-- The LOG ROM, `LOG[EXP[i]] = i` for i in 0..254, `LOG[0] = 0` (R41, R111). -/
def logRom : List Nat :=
  [0, 0, 1, 25, 2, 50, 26, 198, 3, 223, 51, 238, 27, 104, 199, 75]
  ++ [4, 100, 224, 14, 52, 141, 239, 129, 28, 193, 105, 248, 200, 8, 76, 113]
  ++ [5, 138, 101, 47, 225, 36, 15, 33, 53, 147, 142, 218, 240, 18, 130, 69]
  ++ [29, 181, 194, 125, 106, 39, 249, 185, 201, 154, 9, 120, 77, 228, 114, 166]
  ++ [6, 191, 139, 98, 102, 221, 48, 253, 226, 152, 37, 179, 16, 145, 34, 136]
  ++ [54, 208, 148, 206, 143, 150, 219, 189, 241, 210, 19, 92, 131, 56, 70, 64]
  ++ [30, 66, 182, 163, 195, 72, 126, 110, 107, 58, 40, 84, 250, 133, 186, 61]
  ++ [202, 94, 155, 159, 10, 21, 121, 43, 78, 212, 229, 172, 115, 243, 167, 87]
  ++ [7, 112, 192, 247, 140, 128, 99, 13, 103, 74, 222, 237, 49, 197, 254, 24]
  ++ [227, 165, 153, 119, 38, 184, 180, 124, 17, 68, 146, 217, 35, 32, 137, 46]
  ++ [55, 63, 209, 91, 149, 188, 207, 205, 144, 135, 151, 178, 220, 252, 190, 97]
  ++ [242, 86, 211, 171, 20, 42, 93, 158, 132, 60, 57, 83, 71, 109, 65, 162]
  ++ [31, 45, 67, 216, 183, 123, 164, 118, 196, 23, 73, 236, 127, 12, 111, 246]
  ++ [108, 161, 59, 82, 41, 157, 85, 170, 251, 96, 134, 177, 187, 204, 62, 90]
  ++ [203, 89, 95, 176, 156, 169, 160, 81, 11, 245, 22, 235, 122, 117, 44, 215]
  ++ [79, 174, 213, 233, 230, 231, 173, 232, 116, 214, 244, 234, 168, 80, 88, 175]

/-- One triple of a row of BLOCK_TABLE: `count` blocks of `total` codewords, `data` of them data codewords (R150). -/
structure Group where
  count : Nat
  total : Nat
  data : Nat
  deriving DecidableEq, Repr

/-- BLOCK_TABLE, row `(v - 1)·4 + ec` (R150); one line per version, its L, M, Q and H rows. -/
def blockTable : List (List Group) :=
  [[⟨1, 26, 19⟩], [⟨1, 26, 16⟩], [⟨1, 26, 13⟩], [⟨1, 26, 9⟩]]
  ++ [[⟨1, 44, 34⟩], [⟨1, 44, 28⟩], [⟨1, 44, 22⟩], [⟨1, 44, 16⟩]]
  ++ [[⟨1, 70, 55⟩], [⟨1, 70, 44⟩], [⟨2, 35, 17⟩], [⟨2, 35, 13⟩]]
  ++ [[⟨1, 100, 80⟩], [⟨2, 50, 32⟩], [⟨2, 50, 24⟩], [⟨4, 25, 9⟩]]
  ++ [[⟨1, 134, 108⟩], [⟨2, 67, 43⟩], [⟨2, 33, 15⟩, ⟨2, 34, 16⟩], [⟨2, 33, 11⟩, ⟨2, 34, 12⟩]]
  ++ [[⟨2, 86, 68⟩], [⟨4, 43, 27⟩], [⟨4, 43, 19⟩], [⟨4, 43, 15⟩]]
  ++ [[⟨2, 98, 78⟩], [⟨4, 49, 31⟩], [⟨2, 32, 14⟩, ⟨4, 33, 15⟩], [⟨4, 39, 13⟩, ⟨1, 40, 14⟩]]
  ++ [[⟨2, 121, 97⟩], [⟨2, 60, 38⟩, ⟨2, 61, 39⟩], [⟨4, 40, 18⟩, ⟨2, 41, 19⟩], [⟨4, 40, 14⟩, ⟨2, 41, 15⟩]]
  ++ [[⟨2, 146, 116⟩], [⟨3, 58, 36⟩, ⟨2, 59, 37⟩], [⟨4, 36, 16⟩, ⟨4, 37, 17⟩], [⟨4, 36, 12⟩, ⟨4, 37, 13⟩]]
  ++ [[⟨2, 86, 68⟩, ⟨2, 87, 69⟩], [⟨4, 69, 43⟩, ⟨1, 70, 44⟩], [⟨6, 43, 19⟩, ⟨2, 44, 20⟩], [⟨6, 43, 15⟩, ⟨2, 44, 16⟩]]
  ++ [[⟨4, 101, 81⟩], [⟨1, 80, 50⟩, ⟨4, 81, 51⟩], [⟨4, 50, 22⟩, ⟨4, 51, 23⟩], [⟨3, 36, 12⟩, ⟨8, 37, 13⟩]]
  ++ [[⟨2, 116, 92⟩, ⟨2, 117, 93⟩], [⟨6, 58, 36⟩, ⟨2, 59, 37⟩], [⟨4, 46, 20⟩, ⟨6, 47, 21⟩], [⟨7, 42, 14⟩, ⟨4, 43, 15⟩]]
  ++ [[⟨4, 133, 107⟩], [⟨8, 59, 37⟩, ⟨1, 60, 38⟩], [⟨8, 44, 20⟩, ⟨4, 45, 21⟩], [⟨12, 33, 11⟩, ⟨4, 34, 12⟩]]
  ++ [[⟨3, 145, 115⟩, ⟨1, 146, 116⟩], [⟨4, 64, 40⟩, ⟨5, 65, 41⟩], [⟨11, 36, 16⟩, ⟨5, 37, 17⟩], [⟨11, 36, 12⟩, ⟨5, 37, 13⟩]]
  ++ [[⟨5, 109, 87⟩, ⟨1, 110, 88⟩], [⟨5, 65, 41⟩, ⟨5, 66, 42⟩], [⟨5, 54, 24⟩, ⟨7, 55, 25⟩], [⟨11, 36, 12⟩, ⟨7, 37, 13⟩]]
  ++ [[⟨5, 122, 98⟩, ⟨1, 123, 99⟩], [⟨7, 73, 45⟩, ⟨3, 74, 46⟩], [⟨15, 43, 19⟩, ⟨2, 44, 20⟩], [⟨3, 45, 15⟩, ⟨13, 46, 16⟩]]
  ++ [[⟨1, 135, 107⟩, ⟨5, 136, 108⟩], [⟨10, 74, 46⟩, ⟨1, 75, 47⟩], [⟨1, 50, 22⟩, ⟨15, 51, 23⟩], [⟨2, 42, 14⟩, ⟨17, 43, 15⟩]]
  ++ [[⟨5, 150, 120⟩, ⟨1, 151, 121⟩], [⟨9, 69, 43⟩, ⟨4, 70, 44⟩], [⟨17, 50, 22⟩, ⟨1, 51, 23⟩], [⟨2, 42, 14⟩, ⟨19, 43, 15⟩]]
  ++ [[⟨3, 141, 113⟩, ⟨4, 142, 114⟩], [⟨3, 70, 44⟩, ⟨11, 71, 45⟩], [⟨17, 47, 21⟩, ⟨4, 48, 22⟩], [⟨9, 39, 13⟩, ⟨16, 40, 14⟩]]
  ++ [[⟨3, 135, 107⟩, ⟨5, 136, 108⟩], [⟨3, 67, 41⟩, ⟨13, 68, 42⟩], [⟨15, 54, 24⟩, ⟨5, 55, 25⟩], [⟨15, 43, 15⟩, ⟨10, 44, 16⟩]]
  ++ [[⟨4, 144, 116⟩, ⟨4, 145, 117⟩], [⟨17, 68, 42⟩], [⟨17, 50, 22⟩, ⟨6, 51, 23⟩], [⟨19, 46, 16⟩, ⟨6, 47, 17⟩]]
  ++ [[⟨2, 139, 111⟩, ⟨7, 140, 112⟩], [⟨17, 74, 46⟩], [⟨7, 54, 24⟩, ⟨16, 55, 25⟩], [⟨34, 37, 13⟩]]
  ++ [[⟨4, 151, 121⟩, ⟨5, 152, 122⟩], [⟨4, 75, 47⟩, ⟨14, 76, 48⟩], [⟨11, 54, 24⟩, ⟨14, 55, 25⟩], [⟨16, 45, 15⟩, ⟨14, 46, 16⟩]]
  ++ [[⟨6, 147, 117⟩, ⟨4, 148, 118⟩], [⟨6, 73, 45⟩, ⟨14, 74, 46⟩], [⟨11, 54, 24⟩, ⟨16, 55, 25⟩], [⟨30, 46, 16⟩, ⟨2, 47, 17⟩]]
  ++ [[⟨8, 132, 106⟩, ⟨4, 133, 107⟩], [⟨8, 75, 47⟩, ⟨13, 76, 48⟩], [⟨7, 54, 24⟩, ⟨22, 55, 25⟩], [⟨22, 45, 15⟩, ⟨13, 46, 16⟩]]
  ++ [[⟨10, 142, 114⟩, ⟨2, 143, 115⟩], [⟨19, 74, 46⟩, ⟨4, 75, 47⟩], [⟨28, 50, 22⟩, ⟨6, 51, 23⟩], [⟨33, 46, 16⟩, ⟨4, 47, 17⟩]]
  ++ [[⟨8, 152, 122⟩, ⟨4, 153, 123⟩], [⟨22, 73, 45⟩, ⟨3, 74, 46⟩], [⟨8, 53, 23⟩, ⟨26, 54, 24⟩], [⟨12, 45, 15⟩, ⟨28, 46, 16⟩]]
  ++ [[⟨3, 147, 117⟩, ⟨10, 148, 118⟩], [⟨3, 73, 45⟩, ⟨23, 74, 46⟩], [⟨4, 54, 24⟩, ⟨31, 55, 25⟩], [⟨11, 45, 15⟩, ⟨31, 46, 16⟩]]
  ++ [[⟨7, 146, 116⟩, ⟨7, 147, 117⟩], [⟨21, 73, 45⟩, ⟨7, 74, 46⟩], [⟨1, 53, 23⟩, ⟨37, 54, 24⟩], [⟨19, 45, 15⟩, ⟨26, 46, 16⟩]]
  ++ [[⟨5, 145, 115⟩, ⟨10, 146, 116⟩], [⟨19, 75, 47⟩, ⟨10, 76, 48⟩], [⟨15, 54, 24⟩, ⟨25, 55, 25⟩], [⟨23, 45, 15⟩, ⟨25, 46, 16⟩]]
  ++ [[⟨13, 145, 115⟩, ⟨3, 146, 116⟩], [⟨2, 74, 46⟩, ⟨29, 75, 47⟩], [⟨42, 54, 24⟩, ⟨1, 55, 25⟩], [⟨23, 45, 15⟩, ⟨28, 46, 16⟩]]
  ++ [[⟨17, 145, 115⟩], [⟨10, 74, 46⟩, ⟨23, 75, 47⟩], [⟨10, 54, 24⟩, ⟨35, 55, 25⟩], [⟨19, 45, 15⟩, ⟨35, 46, 16⟩]]
  ++ [[⟨17, 145, 115⟩, ⟨1, 146, 116⟩], [⟨14, 74, 46⟩, ⟨21, 75, 47⟩], [⟨29, 54, 24⟩, ⟨19, 55, 25⟩], [⟨11, 45, 15⟩, ⟨46, 46, 16⟩]]
  ++ [[⟨13, 145, 115⟩, ⟨6, 146, 116⟩], [⟨14, 74, 46⟩, ⟨23, 75, 47⟩], [⟨44, 54, 24⟩, ⟨7, 55, 25⟩], [⟨59, 46, 16⟩, ⟨1, 47, 17⟩]]
  ++ [[⟨12, 151, 121⟩, ⟨7, 152, 122⟩], [⟨12, 75, 47⟩, ⟨26, 76, 48⟩], [⟨39, 54, 24⟩, ⟨14, 55, 25⟩], [⟨22, 45, 15⟩, ⟨41, 46, 16⟩]]
  ++ [[⟨6, 151, 121⟩, ⟨14, 152, 122⟩], [⟨6, 75, 47⟩, ⟨34, 76, 48⟩], [⟨46, 54, 24⟩, ⟨10, 55, 25⟩], [⟨2, 45, 15⟩, ⟨64, 46, 16⟩]]
  ++ [[⟨17, 152, 122⟩, ⟨4, 153, 123⟩], [⟨29, 74, 46⟩, ⟨14, 75, 47⟩], [⟨49, 54, 24⟩, ⟨10, 55, 25⟩], [⟨24, 45, 15⟩, ⟨46, 46, 16⟩]]
  ++ [[⟨4, 152, 122⟩, ⟨18, 153, 123⟩], [⟨13, 74, 46⟩, ⟨32, 75, 47⟩], [⟨48, 54, 24⟩, ⟨14, 55, 25⟩], [⟨42, 45, 15⟩, ⟨32, 46, 16⟩]]
  ++ [[⟨20, 147, 117⟩, ⟨4, 148, 118⟩], [⟨40, 75, 47⟩, ⟨7, 76, 48⟩], [⟨43, 54, 24⟩, ⟨22, 55, 25⟩], [⟨10, 45, 15⟩, ⟨67, 46, 16⟩]]
  ++ [[⟨19, 148, 118⟩, ⟨6, 149, 119⟩], [⟨18, 75, 47⟩, ⟨31, 76, 48⟩], [⟨34, 54, 24⟩, ⟨34, 55, 25⟩], [⟨20, 45, 15⟩, ⟨61, 46, 16⟩]]

/-- ALIGN_TABLE, entry `v - 1` the alignment centre coordinates of version v (R193). -/
def alignTable : List (List Nat) :=
  [[], [6, 18], [6, 22], [6, 26], [6, 30], [6, 34], [6, 22, 38], [6, 24, 42]]
  ++ [[6, 26, 46], [6, 28, 50], [6, 30, 54], [6, 32, 58], [6, 34, 62], [6, 26, 46, 66], [6, 26, 48, 70], [6, 26, 50, 74]]
  ++ [[6, 30, 54, 78], [6, 30, 56, 82], [6, 30, 58, 86], [6, 34, 62, 90], [6, 28, 50, 72, 94], [6, 26, 50, 74, 98], [6, 30, 54, 78, 102], [6, 28, 54, 80, 106]]
  ++ [[6, 32, 58, 84, 110], [6, 30, 58, 86, 114], [6, 34, 62, 90, 118], [6, 26, 50, 74, 98, 122], [6, 30, 54, 78, 102, 126], [6, 26, 52, 78, 104, 130], [6, 30, 56, 82, 108, 134], [6, 34, 60, 86, 112, 138]]
  ++ [[6, 30, 58, 86, 114, 142], [6, 34, 62, 90, 118, 146], [6, 30, 54, 78, 102, 126, 150], [6, 24, 50, 76, 102, 128, 154], [6, 28, 54, 80, 106, 132, 158], [6, 32, 58, 84, 110, 136, 162], [6, 26, 54, 82, 110, 138, 166], [6, 30, 58, 86, 114, 142, 170]]

end Sys2Proof.Machine
end

