-- ==== Sys2Proof/Machine/Gf.lean ====
section
/-! DEFINITION. GF(256) arithmetic and the commands NOP, GEXP, GLOG and GFMUL (spec/40_gf.md R110 to R118). -/

namespace Sys2Proof.Machine

/-- `EXP[n mod 255]` for a natural exponent (R112). -/
def gexpNat (n : Nat) : Byte := expRom.getD (n % 255) 0

/-- `gexp(n) = EXP[n mod 255]` for any integer, with the Euclidean `mod` of R11 (R112). -/
def gexp (n : Int) : Byte := gexpNat (n % 255).toNat

/-- `LOG[n]` (R111). -/
def logOf (b : Byte) : Nat := logRom.getD b.toNat 0

/-- `glog(n)`: `LOG[n]` for a non-zero element; for 0 it raises INTERNAL, here `none` (R112). -/
def glog (b : Byte) : Option Nat := if b = 0 then none else some (logOf b)

/-- The total field product (R116). -/
def gmul (a b : Byte) : Byte := if a = 0 ∨ b = 0 then 0 else gexpNat (logOf a + logOf b)

/-- NOP (R113). -/
def execNop (s : State) : Host.Outcome State Fault Refusal := retire s

/-- GEXP (R114). -/
def execGexp (rd ra : Fin 8) (s : State) : Host.Outcome State Fault Refusal :=
  retire (setX rd ((gexp (xNat ra s)).setWidth 32) s)

/-- GLOG (R115): the range check first, then `glog(0)`. -/
def execGlog (rd ra : Fin 8) (s : State) : Host.Outcome State Fault Refusal :=
  if xNat ra s > 255 then raise .invalidParameter s
  else match glog (xByte ra s) with
    | none => raise .internal s
    | some k => retire (setX rd (BitVec.ofNat 32 k) s)

/-- GFMUL (R117). -/
def execGfmul (rd ra rb : Fin 8) (s : State) : Host.Outcome State Fault Refusal :=
  if xNat ra s > 255 ∨ xNat rb s > 255 then raise .invalidParameter s
  else retire (setX rd ((gmul (xByte ra s) (xByte rb s)).setWidth 32) s)

end Sys2Proof.Machine
end

