-- ==== Sys2Proof/Machine/Poly.lean ====
section
/-! DEFINITION. Polynomials over GF(256) as lists, highest degree first (spec/00_scope.md R14), and the commands PNORM,
PMUL, PMOD and RSGEN (spec/41_poly.md R130 to R140). -/

namespace Sys2Proof.Machine

/-- `zeros(k)` (R14). -/
def zeros (k : Nat) : List Byte := List.replicate k 0

/-- Drop leading zeros; the zero polynomial is `[0]` (R131). -/
def strip : List Byte → List Byte
  | [] => [0]
  | c :: cs => if c = 0 then strip cs else c :: cs

/-- The degree after leading zeros are ignored, -1 for the zero polynomial (R14). -/
def deg (l : List Byte) : Int := if strip l = [0] then -1 else (strip l).length - 1

/-- `⊕` over a list of field elements. -/
def xorSum (l : List Byte) : Byte := l.foldl (· ^^^ ·) 0

/-- Coefficient `k` of the list product: `⊕` of `A[i]·B[k-i]` (the loop nest of R135 by its result, log 13). -/
def mulCoeff (a b : List Byte) (k : Nat) : Byte :=
  xorSum ((List.range a.length).map fun i =>
    if i ≤ k ∧ k - i < b.length then gmul (a.getD i 0) (b.getD (k - i) 0) else 0)

/-- The product list of R135, `la + lb - 1` entries, not yet stripped. -/
def mulList (a b : List Byte) : List Byte := (List.range (a.length + b.length - 1)).map (mulCoeff a b)

/-- The source's `mul` (R135): `none` where some term calls `glog(0)`, that is where either list holds a zero. -/
def polymul (a b : List Byte) : Option (List Byte) :=
  if a.any (· = 0) ∨ b.any (· = 0) then none else some (strip (mulList a b))

/-- One iteration's subtraction in R136, for a stripped `a` at least as long as `B` and no zero in `B`:
`a[i] ⊕ gexp(glog(B[i]) + r)` for `i < len(B)`, the rest of `a` kept. -/
def reduceOnce (a b : List Byte) (r : Int) : List Byte :=
  List.zipWith (fun ai bi => ai ^^^ gexp (logOf bi + r)) a b ++ a.drop b.length

/-- The loop of R136 on a stripped `a`; `fuel` bounds its iterations, each of which shortens `a` (log 11). -/
def polymodLoop (b : List Byte) : Nat → List Byte → Option (List Byte)
  | 0, a => some a
  | fuel + 1, a =>
    if deg a < deg b then some a
    else if b.any (· = 0) then none
    else polymodLoop b fuel (strip (reduceOnce a b ((logOf (a.headD 0) : Int) - logOf (b.headD 0))))

/-- The source's `mod(a, b)` (R136); `none` where `glog(0)` raises INTERNAL. -/
def polymod (a b : List Byte) : Option (List Byte) :=
  if b.headD 0 = 0 then none else polymodLoop b a.length (strip a)

/-- The generator times `[01, gexp(i)]` (R139). -/
def genStep (g : List Byte) (i : Nat) : List Byte :=
  List.zipWith (· ^^^ ·) (g ++ [0]) (0 :: g.map fun c => gmul c (gexp i))

/-- The Reed–Solomon generator of degree `n` (R139). -/
def rsgenpoly : Nat → List Byte
  | 0 => [1]
  | n + 1 => genStep (rsgenpoly n) n

/-- The polynomial PNORM writes: the stripped source times `x^shift` (R133, R134). -/
def pnormPoly (a : List Byte) (shift : Nat) : List Byte :=
  if strip a = [0] then [0] else strip a ++ zeros shift

/-- PNORM (R133). -/
def execPnorm (pd pa : Fin 4) (shift : Nat) (s : State) : Host.Outcome State Fault Refusal :=
  if tooLong pa s then raise .invalidParameter s
  else if isEmpty pa s then raise .internal s
  else if (pnormPoly (polyOf pa s) shift).length > Config.maxPoly then raise .dataOverflow s
  else retire (setPoly pd (pnormPoly (polyOf pa s) shift) s)

/-- PMUL (R135). -/
def execPmul (pd pa pb : Fin 4) (s : State) : Host.Outcome State Fault Refusal :=
  if tooLong pa s ∨ tooLong pb s then raise .invalidParameter s
  else if isEmpty pa s ∨ isEmpty pb s then raise .internal s
  else if plenOf pa s + plenOf pb s - 1 > Config.maxPoly then raise .dataOverflow s
  else match polymul (polyOf pa s) (polyOf pb s) with
    | none => raise .internal s
    | some c => retire (setPoly pd c s)

/-- PMOD (R137). -/
def execPmod (pd pa pb : Fin 4) (s : State) : Host.Outcome State Fault Refusal :=
  if tooLong pa s ∨ tooLong pb s then raise .invalidParameter s
  else if isEmpty pa s ∨ isEmpty pb s then raise .internal s
  else match polymod (polyOf pa s) (polyOf pb s) with
    | none => raise .internal s
    | some r => retire (setPoly pd r s)

/-- RSGEN (R140). -/
def execRsgen (pd : Fin 4) (n : Nat) (s : State) : Host.Outcome State Fault Refusal :=
  retire (setPoly pd (rsgenpoly n) s)

end Sys2Proof.Machine
end

