-- ==== Sys2Proof/Machine/Rs.lean ====
section
/-! DEFINITION. The block table and the block-interleaved Reed–Solomon encoder RSENC (spec/42_rs.md R150 to R159). -/

namespace Sys2Proof.Machine

/-- Row `(v - 1)·4 + ec` of BLOCK_TABLE (R150). -/
def blockRow (v ec : Nat) : List Group := blockTable.getD ((v - 1) * 4 + ec) []

/-- The list of blocks `(total, data)` (R152). -/
def rsBlocks (v ec : Nat) : List (Nat × Nat) :=
  (blockRow v ec).flatMap fun g => List.replicate g.count (g.total, g.data)

/-- `cap(v, ec)`, the data capacity (R152). -/
def capacity (v ec : Nat) : Nat := ((rsBlocks v ec).map Prod.snd).sum

/-- `total(v)`, the codeword count of version v: the same for its four rows, read from row L (R151, R152, log 16). -/
def totalOf (v : Nat) : Nat := ((rsBlocks v 0).map Prod.fst).sum

/-- The `e` EC codewords of a block's data codewords (R154, R155). The remainder never meets a zero coefficient: every
generator used has degree at most 30 (R156). -/
def ecblock (d : List Byte) (e : Nat) : List Byte :=
  let r := (polymod (pnormPoly d e) (rsgenpoly e)).getD [0]
  let r' := if r = [0] then [] else r
  zeros (e - r'.length) ++ r'

/-- Cut a stream into consecutive blocks of the given lengths, in order (R156, R157). -/
def partition : List Nat → List Byte → List (List Byte)
  | [], _ => []
  | n :: ns, l => l.take n :: partition ns (l.drop n)

/-- Column `j` of a list of blocks: the entries at `j` of the blocks that have one, in block order (R157). -/
def column (bs : List (List Byte)) (j : Nat) : List Byte := bs.filterMap (·[j]?)

/-- The largest block length. -/
def maxLength (bs : List (List Byte)) : Nat := (bs.map List.length).foldl max 0

/-- All columns in order (R157). -/
def columns (bs : List (List Byte)) : List Byte := (List.range (maxLength bs)).flatMap (column bs)

/-- `interleave(Dat, Ec)`: the data columns, then the EC columns (R157). -/
def interleave (dat ec : List (List Byte)) : List Byte := columns dat ++ columns ec

/-- The data blocks of RSENC (R156). -/
def dataBlocks (v ec : Nat) (data : List Byte) : List (List Byte) := partition ((rsBlocks v ec).map Prod.snd) data

/-- The EC blocks of RSENC (R156). -/
def ecBlocks (v ec : Nat) (data : List Byte) : List (List Byte) :=
  List.zipWith (fun b d => ecblock d (b.1 - b.2)) (rsBlocks v ec) (dataBlocks v ec data)

/-- The codeword stream RSENC writes (R156). -/
def rsStream (v ec : Nat) (data : List Byte) : List Byte := interleave (dataBlocks v ec data) (ecBlocks v ec data)

/-- RSENC (R156). -/
def execRsenc (s : State) : Host.Outcome State Fault Refusal :=
  let v := versionOf s
  let ec := s.ec.toNat
  if !legalVersion v then raise .invalidParameter s
  else if s.dlen.toNat > capacity v ec then raise .dataOverflow s
  else if s.dlen.toNat < capacity v ec then raise .invalidData s
  else
    let stream := rsStream v ec (readBytes dataBase s.dlen.toNat s)
    retire { writeBytes cwBase stream s with cwlen := BitVec.ofNat 13 stream.length }

end Sys2Proof.Machine
end

