-- ==== Sys2Proof/Machine/Matrix.lean ====
section
/-! DEFINITION. The module matrix, the function patterns, the zig-zag placer, the mask predicates and the commands
MINIT, MPLACE and MPRED (spec/44_matrix.md R190 to R217). -/

namespace Sys2Proof.Machine

/-- `N = 4v + 17` (R190). -/
def sideOf (v : Nat) : Nat := 4 * v + 17

/-- `M[r][c]`; a cell not listed is UNSET with `func = 0` (R47). -/
def Matrix.cell (m : Matrix) (r c : Nat) : MCell := (m.getD r []).getD c MCell.blank

/-- Replace entry `i` of a list, lengthening it with `d` where it is too short. -/
def putAt {α : Type} (d : α) : List α → Nat → α → List α
  | [], 0, x => [x]
  | [], i + 1, x => d :: putAt d [] i x
  | _ :: l, 0, x => x :: l
  | y :: l, i + 1, x => y :: putAt d l i x

/-- `M[r][c] <- x`. -/
def Matrix.put (m : Matrix) (r c : Nat) (x : MCell) : Matrix := putAt [] m r (putAt MCell.blank (m.getD r []) c x)

/-- `M[r][c].state <- h`, the `func` flag kept. -/
def Matrix.setShade (m : Matrix) (r c : Nat) (h : Shade) : Matrix := m.put r c { m.cell r c with shade := h }

/-- The `n × n` matrix with `f r c` at `(r, c)`; every other cell is UNSET with `func = 0`. -/
def tabulate (n : Nat) (f : Nat → Nat → MCell) : Matrix :=
  (List.range n).map fun r => (List.range n).map fun c => f r c

/-- DARK for a true condition, LIGHT for a false one. -/
def shadeOf (dark : Bool) : Shade := if dark then .dark else .light

/-! ## Function patterns

Each layer gives the shade it puts at `(r, c)`, or `none` where it puts nothing. -/

/-- The origins of the three finders, in the order of R191. -/
def finderOrigins (n : Nat) : List (Nat × Nat) := [(0, 0), (n - 7, 0), (0, n - 7)]

/-- One finder with its separator, `dr`, `dc` in -1..7 (R191). -/
def finderAt (origin : Nat × Nat) (r c : Nat) : Option Shade :=
  let dr : Int := (r : Int) - origin.1
  let dc : Int := (c : Int) - origin.2
  if -1 ≤ dr ∧ dr ≤ 7 ∧ -1 ≤ dc ∧ dc ≤ 7 then
    some (shadeOf ((0 ≤ dr ∧ dr ≤ 6 ∧ (dc = 0 ∨ dc = 6)) ∨ (0 ≤ dc ∧ dc ≤ 6 ∧ (dr = 0 ∨ dr = 6))
      ∨ (2 ≤ dr ∧ dr ≤ 4 ∧ 2 ≤ dc ∧ dc ≤ 4)))
  else none

/-- A later put overwrites an earlier one. -/
def overlay (old new : Option Shade) : Option Shade := new.orElse fun _ => old

/-- The three finders with separators, in order (R191). -/
def finderLayer (n r c : Nat) : Option Shade := (finderOrigins n).foldl (fun a o => overlay a (finderAt o r c)) none

/-- The timing patterns, row 6 and column 6, `k` in 8..N-9 (R192). -/
def timingLayer (n r c : Nat) : Option Shade :=
  if r = 6 ∧ 8 ≤ c ∧ c ≤ n - 9 then some (shadeOf (c % 2 = 0))
  else if c = 6 ∧ 8 ≤ r ∧ r ≤ n - 9 then some (shadeOf (r % 2 = 0))
  else none

/-- The alignment centre coordinates of version v (R193). -/
def alignPositions (v : Nat) : List Nat := alignTable.getD (v - 1) []

/-- A centre inside a 7×7 finder region is skipped (R194). -/
def inFinder (n ar ac : Nat) : Bool :=
  (finderOrigins n).any fun o => o.1 ≤ ar ∧ ar ≤ o.1 + 6 ∧ o.2 ≤ ac ∧ ac ≤ o.2 + 6

/-- The 5×5 alignment pattern centred at `(ar, ac)` (R194). -/
def alignAt (ar ac r c : Nat) : Option Shade :=
  let dr := ((r : Int) - ar).natAbs
  let dc := ((c : Int) - ac).natAbs
  if dr ≤ 2 ∧ dc ≤ 2 then some (shadeOf (max dr dc = 2 ∨ (dr = 0 ∧ dc = 0))) else none

/-- The centres drawn, row-major in list order (R194). -/
def alignCentres (v : Nat) : List (Nat × Nat) :=
  ((alignPositions v).flatMap fun ar => (alignPositions v).map fun ac => (ar, ac)).filter
    fun p => !inFinder (sideOf v) p.1 p.2

/-- All alignment patterns of version v, in order (R194). -/
def alignLayer (v r c : Nat) : Option Shade := (alignCentres v).foldl (fun a p => overlay a (alignAt p.1 p.2 r c)) none

/-- The two cells of format bit `i`, copy A then copy B (R195). -/
def fmtCells (n i : Nat) : List (Nat × Nat) :=
  if i ≤ 5 then [(i, 8), (8, n - 1 - i)]
  else if i = 6 then [(7, 8), (8, n - 7)]
  else if i = 7 then [(8, 8), (8, n - 8)]
  else if i = 8 then [(n - 7, 8), (8, 7)]
  else [(n - 15 + i, 8), (8, 14 - i)]

/-- The dark module (R196). -/
def darkModule (n : Nat) : Nat × Nat := (n - 8, 8)

/-- The two cells of version bit `i` (R197). -/
def verCells (n i : Nat) : List (Nat × Nat) := [(i / 3, n - 11 + i % 3), (n - 11 + i % 3, i / 3)]

/-- All 30 format cells (R195). -/
def allFmtCells (n : Nat) : List (Nat × Nat) := (List.range 15).flatMap (fmtCells n)

/-- All 36 version cells, for v ≥ 7 (R197). -/
def allVerCells (v : Nat) : List (Nat × Nat) := if 7 ≤ v then (List.range 18).flatMap (verCells (sideOf v)) else []

/-- What the function-pattern setup puts at `(r, c)`, the layers in the order of R200; `none` for a data cell. The
timing layer leaves set cells (R192); format and version cells get LIGHT placeholders (R200, conflict C7). -/
def funcShade (v r c : Nat) : Option Shade :=
  let n := sideOf v
  let a := finderLayer n r c
  let a := if a = none then timingLayer n r c else a
  let a := overlay a (alignLayer v r c)
  let a := if (r, c) ∈ allFmtCells n then some .light else a
  let a := if (r, c) = darkModule n then some .dark else a
  if (r, c) ∈ allVerCells v then some .light else a

/-- The cell the function-pattern setup leaves at `(r, c)` (R200). -/
def funcCell (v r c : Nat) : MCell :=
  match funcShade v r c with
  | some h => ⟨h, true⟩
  | none => MCell.blank

/-- `buildfunc(v)` (R200). -/
def buildfunc (v : Nat) : Matrix := tabulate (sideOf v) (funcCell v)

/-! ## Masks, placement -/

/-- The eight mask predicates (R203). -/
def maskPred (m i j : Nat) : Bool :=
  match m with
  | 0 => (i + j) % 2 = 0
  | 1 => i % 2 = 0
  | 2 => j % 3 = 0
  | 3 => (i + j) % 3 = 0
  | 4 => (i / 2 + j / 3) % 2 = 0
  | 5 => i * j % 2 + i * j % 3 = 0
  | 6 => (i * j % 2 + i * j % 3) % 2 = 0
  | 7 => (i * j % 3 + (i + j) % 2) % 2 = 0
  | _ => false

/-- Restore before placing: every data cell inside N becomes UNSET (R210). -/
def restore (n : Nat) (m : Matrix) : Matrix :=
  (m.take n).map (fun row => (row.take n).map (fun x => if x.func then x else { x with shade := .unset }) ++ row.drop n)
    ++ m.drop n

/-- The bits of one codeword, bit 7 first (R211). -/
def byteBits (b : Byte) : List Bool := (List.range 8).map fun k => b.getLsbD (7 - k)

/-- The bit stream of a codeword list (R211). -/
def streamBits (cw : List Byte) : List Bool := cw.flatMap byteBits

/-- The visits of one column pair: right column first in each row (R212). -/
def pairVisits (n col : Nat) (up : Bool) : List (Nat × Nat) :=
  (if up then (List.range n).reverse else List.range n).flatMap fun r => [(r, col), (r, col - 1)]

/-- The column loop of R212; `fuel` bounds the number of pairs. -/
def zigzagFrom (n : Nat) : Nat → Nat → Bool → List (Nat × Nat)
  | 0, _, _ => []
  | fuel + 1, col, up =>
    if col = 0 then []
    else
      let col := if col = 6 then 5 else col
      pairVisits n col up ++ zigzagFrom n fuel (col - 2) (!up)

/-- The zig-zag order (R212). -/
def zigzag (n : Nat) : List (Nat × Nat) := zigzagFrom n n (n - 1) true

/-- The walk of R217: at every UNSET cell consume one bit, 0 once the stream is exhausted (R213), flip it where the
mask predicate holds, and write it; an assigned cell is kept. -/
def placeBits (mask : Nat) : List (Nat × Nat) → List Bool → Matrix → Matrix
  | [], _, m => m
  | (r, c) :: ps, bits, m =>
    if (m.cell r c).shade = .unset then
      placeBits mask ps bits.tail (m.setShade r c (shadeOf (bits.headD false ^^ maskPred mask r c)))
    else placeBits mask ps bits m

/-- Set the shades of a list of cells to the bits of a word, cell by cell. -/
def writeCells (word : Nat) (cells : Nat → List (Nat × Nat)) (bits : Nat) (m : Matrix) : Matrix :=
  (List.range bits).foldl
    (fun m i => (cells i).foldl (fun m p => m.setShade p.1 p.2 (shadeOf (word.testBit i))) m) m

/-- The version word a symbol of version v carries, 0 below 7 (R176, R216). -/
def verword (v : Nat) : Nat := if 7 ≤ v then bch18 v else 0

/-- `writeinfo(v, ec, m)` (R216): the format word, the dark module, the version word. -/
def writeinfo (v ec mask : Nat) (m : Matrix) : Matrix :=
  let n := sideOf v
  let m := writeCells (fmtword ec mask) (fmtCells n) 15 m
  let m := m.setShade (darkModule n).1 (darkModule n).2 .dark
  if 7 ≤ v then writeCells (verword v) (verCells n) 18 m else m

/-- `placeall(v, ec, m)` (R217) with the codeword stream `cw`. -/
def placeall (v ec mask : Nat) (cw : List Byte) (m : Matrix) : Matrix :=
  placeBits mask (zigzag (sideOf v)) (streamBits cw) (writeinfo v ec mask (restore (sideOf v) m))

/-- The codeword stream `CW[0..CWLEN-1]` (R211). -/
def codewords (s : State) : List Byte := readBytes cwBase s.cwlen.toNat s

/-! ## Commands -/

/-- MINIT (R201). -/
def execMinit (s : State) : Host.Outcome State Fault Refusal :=
  if !legalVersion (versionOf s) then raise .invalidParameter s
  else retire { s with
    matrix := buildfunc (versionOf s)
    matVer := s.version
    placed := false
    maskValid := false }

/-- MPLACE (R215). -/
def execMplace (s : State) : Host.Outcome State Fault Refusal :=
  let v := versionOf s
  let ec := s.ec.toNat
  let m := s.maskSel.toNat
  if !legalVersion v ∨ m > 7 then raise .invalidParameter s
  else if s.matVer ≠ s.version then raise .sequence s
  else if s.cwlen.toNat ≠ totalOf v then raise .invalidData s
  else retire { s with
    matrix := placeall v ec m (codewords s) s.matrix
    placed := true
    maskUsed := BitVec.ofNat 3 m
    maskValid := true
    fmtw := BitVec.ofNat 15 (fmtword ec m)
    verw := BitVec.ofNat 18 (verword v) }

/-- MPRED (R205). -/
def execMpred (rd ra rb : Fin 8) (m : Nat) (s : State) : Host.Outcome State Fault Refusal :=
  if xNat ra s > 255 ∨ xNat rb s > 255 then raise .invalidParameter s
  else retire (setX rd (if maskPred m (xNat ra s) (xNat rb s) then 1 else 0) s)

end Sys2Proof.Machine
end

