-- ==== Sys2Proof/Machine/Mask.lean ====
section
/-! DEFINITION. The penalty, and the commands MSCORE and MBUILD (spec/45_mask.md R230 to R244). -/

namespace Sys2Proof.Machine

/-- `g(r, c)`: the cell is DARK (head of spec/45_mask.md). -/
def isDark (m : Matrix) (r c : Nat) : Bool := (m.cell r c).shade = .dark

/-- The `2N` lines of an `n × n` picture, all rows first. -/
def linesOf (n : Nat) (g : Nat → Nat → Bool) : List (List Bool) :=
  ((List.range n).map fun r => (List.range n).map fun c => g r c)
    ++ (List.range n).map fun c => (List.range n).map fun r => g r c

/-- Lengths of the maximal runs of a line that begins inside a run of `k` cells equal to `b`. -/
def runsFrom (b : Bool) (k : Nat) : List Bool → List Nat
  | [] => [k]
  | x :: xs => if x = b then runsFrom b (k + 1) xs else k :: runsFrom x 1 xs

/-- Lengths of the maximal runs of equal values of a line (R231). -/
def runLengths : List Bool → List Nat
  | [] => []
  | x :: xs => runsFrom x 1 xs

/-- What the runs of one line add: `L - 2` for each maximal run of length `L ≥ 5` (R231). -/
def runPoints (l : List Bool) : Nat := ((runLengths l).map fun k => if 5 ≤ k then k - 2 else 0).sum

/-- Rule 1: the run points of all lines (R231). -/
def penalty1 (n : Nat) (g : Nat → Nat → Bool) : Nat := ((linesOf n g).map runPoints).sum

/-- Rule 2: each 2×2 block of equal cells adds 3 (R232). -/
def penalty2 (n : Nat) (g : Nat → Nat → Bool) : Nat :=
  3 * ((List.range (n - 1)).map fun r => (List.range (n - 1)).countP fun c =>
    g r c == g r (c + 1) && g r c == g (r + 1) c && g r c == g (r + 1) (c + 1)).sum

/-- `1 0 1 1 1 0 1 0 0 0 0` (R233). -/
def finderLike1 : List Bool := [true, false, true, true, true, false, true, false, false, false, false]

/-- `0 0 0 0 1 0 1 1 1 0 1` (R233). -/
def finderLike2 : List Bool := [false, false, false, false, true, false, true, true, true, false, true]

/-- The windows of 11 cells of a line that equal one of the two patterns (R233). -/
def windowCount (l : List Bool) : Nat :=
  (List.range (l.length - 10)).countP fun s =>
    (l.drop s).take 11 == finderLike1 || (l.drop s).take 11 == finderLike2

/-- Rule 3 (R233). -/
def penalty3 (n : Nat) (g : Nat → Nat → Bool) : Nat := 40 * ((linesOf n g).map windowCount).sum

/-- The number of DARK cells (R234). -/
def darkCount (n : Nat) (g : Nat → Nat → Bool) : Nat :=
  ((List.range n).map fun r => (List.range n).countP fun c => g r c).sum

/-- Rule 4 from the dark count `d` and the cell count `t` (R234). -/
def balance (d t : Nat) : Nat := 10 * ((100 * (d : Int) - 50 * t).natAbs / (5 * t))

/-- Rule 4 (R234). -/
def penalty4 (n : Nat) (g : Nat → Nat → Bool) : Nat := balance (darkCount n g) (n * n)

/-- `penalty()` of an `n × n` picture (R235). -/
def penaltyOf (n : Nat) (g : Nat → Nat → Bool) : Nat := penalty1 n g + penalty2 n g + penalty3 n g + penalty4 n g

/-- The penalty of the version-v symbol in a matrix (R235, R236). -/
def matrixPenalty (v : Nat) (m : Matrix) : Nat := penaltyOf (sideOf v) (isDark m)

/-- FILL = 1: every format cell, the dark module and every version cell becomes LIGHT before scoring (R241). -/
def fillLight (v : Nat) (m : Matrix) : Matrix :=
  (allFmtCells (sideOf v) ++ [darkModule (sideOf v)] ++ allVerCells v).foldl (fun m p => m.setShade p.1 p.2 .light) m

/-- The candidate penalty `S[k]` of mask `k` (R241, R242). Each candidate starts from the function patterns: a
placement first restores the data cells, so the candidates are independent (R242, log 12). -/
def candidateScore (v ec : Nat) (fill : Bool) (cw : List Byte) (k : Nat) : Nat :=
  let m := placeall v ec k cw (buildfunc v)
  matrixPenalty v (if fill then fillLight v m else m)

/-- The eight candidate penalties (R242). -/
def candidateScores (v ec : Nat) (fill : Bool) (cw : List Byte) : List Nat :=
  (List.range 8).map (candidateScore v ec fill cw)

/-- The least index of a least entry (R242: "ties resolved by lowest index"). -/
def leastIndex (l : List Nat) : Nat := ((List.range l.length).find? fun k => l.all (l.getD k 0 ≤ ·)).getD 0

/-- SCORE0..SCORE7 from the candidate penalties (R39, R242). -/
def scoreVector (l : List Nat) : Vector Word 8 := Vector.ofFn fun k => BitVec.ofNat 32 (l.getD k.val 0)

/-- MSCORE (R238). -/
def execMscore (rd : Fin 8) (s : State) : Host.Outcome State Fault Refusal :=
  if s.matVer = 0 ∨ s.placed = false then raise .sequence s
  else retire (setX rd (BitVec.ofNat 32 (matrixPenalty s.matVer.toNat s.matrix)) s)

/-- The writes MBUILD makes once the mask is chosen (R242): the final placement and the registers that describe it. -/
def buildWith (best : Nat) (s : State) : State :=
  let v := versionOf s
  let m := placeall v s.ec.toNat best (codewords s) (buildfunc v)
  { s with
    matrix := m
    matVer := s.version
    placed := true
    maskUsed := BitVec.ofNat 3 best
    maskValid := true
    fmtw := BitVec.ofNat 15 (fmtword s.ec.toNat best)
    verw := BitVec.ofNat 18 (verword v)
    penalty := BitVec.ofNat 32 (matrixPenalty v m) }

/-- MBUILD (R240, R242). -/
def execMbuild (s : State) : Host.Outcome State Fault Refusal :=
  let v := versionOf s
  if !legalVersion v ∨ s.maskSel.toNat > 8 then raise .invalidParameter s
  else if s.cwlen.toNat ≠ totalOf v then raise .invalidData s
  else if s.maskSel = 8 then
    let scores := candidateScores v s.ec.toNat s.fill (codewords s)
    retire { buildWith (leastIndex scores) s with score := scoreVector scores }
  else retire (buildWith s.maskSel.toNat s)

end Sys2Proof.Machine
end

