-- ==== Sys2Proof/Machine/Bus.lean ====
section
/-! DEFINITION. The host's side of QRE: the address map, reads and writes (spec/20_memory.md R60 to R71), the issue of
a command (R66), the busy rules (R67) and the reset input (spec/70_reset_and_hazards.md R290, R291). -/

namespace Sys2Proof.Machine

/-- What a word address names (spec/10_state.md R28, spec/20_memory.md R61, R62). -/
inductive Target where
  | ctrl | status | cmd | cfg | dlen | cwlen | mstat | rmask | fmtw | verw | penalty
  | score (k : Fin 8) | plen (p : Fin 4) | xreg (r : Fin 8)
  | exp (i : Nat) | log (i : Nat) | blk (i : Nat) | align (i : Nat)
  /-- an 8-bit entry of PR, DATA or CW -/
  | entry (a : Nat)
  /-- a MATRIX cell -/
  | cell (r c : Nat)
  /-- reserved or unmapped -/
  | unmapped
  deriving DecidableEq, Repr

/-- The words of 0x000..0x0FF (R28, R62). -/
def csrTarget (a : Nat) : Target :=
  match a with
  | 0x000 => .ctrl
  | 0x001 => .status
  | 0x002 => .cmd
  | 0x003 => .cfg
  | 0x004 => .dlen
  | 0x005 => .cwlen
  | 0x006 => .mstat
  | 0x007 => .rmask
  | 0x008 => .fmtw
  | 0x009 => .verw
  | 0x00A => .penalty
  | _ =>
    if 0x010 ≤ a ∧ a < 0x018 then .score (Fin.ofNat 8 (a - 0x010))
    else if 0x018 ≤ a ∧ a < 0x01C then .plen (Fin.ofNat 4 (a - 0x018))
    else if 0x020 ≤ a ∧ a < 0x028 then .xreg (Fin.ofNat 8 (a - 0x020))
    else .unmapped

/-- The address map (R61). -/
def targetOf (a : Nat) : Target :=
  if a < 0x100 then csrTarget a
  else if a < 0x200 then .exp (a - 0x100)
  else if a < 0x300 then .log (a - 0x200)
  else if 0x400 ≤ a ∧ a < 0x540 then .blk (a - 0x400)
  else if 0x600 ≤ a ∧ a < 0x740 then .align (a - 0x600)
  else if isEntry a then .entry a
  else if 0x10000 ≤ a ∧ a < 0x20000 ∧ (a - 0x10000) / 256 < Config.maxSide ∧ a % 256 < Config.maxSide then
    .cell ((a - 0x10000) / 256) (a % 256)
  else .unmapped

/-- Word addresses of the MATRIX cells (R47). -/
def cellAddr (r c : Nat) : Nat := 0x10000 + 256 * r + c

/-- Words that keep their defined value while BUSY = 1 (R67); a read of any other word is then a draw. -/
def Target.stable : Target → Bool
  | .ctrl | .status | .cmd | .exp _ | .log _ | .blk _ | .align _ | .unmapped => true
  | .cfg | .dlen | .cwlen | .mstat | .rmask | .fmtw | .verw | .penalty | .score _ | .plen _ | .xreg _
  | .entry _ | .cell _ _ => false

/-- The CFG word (R32). -/
def cfgWord (s : State) : Word :=
  BitVec.ofNat 32 (s.version.toNat + 64 * s.ec.toNat + 256 * s.maskSel.toNat + 4096 * s.fill.toNat)

/-- The MSTAT word (R36). -/
def mstatWord (s : State) : Word := BitVec.ofNat 32 (s.matVer.toNat + 256 * s.placed.toNat)

/-- The RMASK word (R37). -/
def rmaskWord (s : State) : Word := BitVec.ofNat 32 (s.maskUsed.toNat + 256 * s.maskValid.toNat)

/-- BLK ROM word `2k + g`: count in bits 7:0, total in 15:8, data in 23:16, 0 for an absent second group (R42). -/
def blkWord (i : Nat) : Word :=
  match (blockTable.getD (i / 2) [])[i % 2]? with
  | some g => BitVec.ofNat 32 (g.count + 256 * g.total + 65536 * g.data)
  | none => 0

/-- ALIGN ROM word `8(v - 1) + i`, 0 past the end of the list (R43). -/
def alignWord (i : Nat) : Word := BitVec.ofNat 32 ((alignTable.getD (i / 8) []).getD (i % 8) 0)

/-- The 2-bit code of a cell state (R47). -/
def Shade.num : Shade → Nat
  | .unset => 0
  | .light => 1
  | .dark => 2

/-- A MATRIX word, `{func, state}` in bits 2:0 (R47); a free 3-bit value while the matrix holds no version's function
patterns, its contents being unspecified since reset (R50, R51, log 3). -/
def cellWord (r c : Nat) (s : State) : Word :=
  if s.matVer = 0 then BitVec.ofNat 32 ((Config.powerOn s.epoch (cellAddr r c)).toNat % 8)
  else BitVec.ofNat 32 ((s.matrix.cell r c).shade.num + 4 * (s.matrix.cell r c).func.toNat)

/-- The defined value of a word (R28 to R47, R62, R63, R69). -/
def wordAt (t : Target) (s : State) : Word :=
  match t with
  | .ctrl => BitVec.ofNat 32 s.ie.toNat
  | .status => statusWord s
  | .cmd => s.cmdRead
  | .cfg => cfgWord s
  | .dlen => s.dlen.setWidth 32
  | .cwlen => s.cwlen.setWidth 32
  | .mstat => mstatWord s
  | .rmask => rmaskWord s
  | .fmtw => s.fmtw.setWidth 32
  | .verw => s.verw.setWidth 32
  | .penalty => s.penalty
  | .score k => s.score.get k
  | .plen p => (s.plen.get p).setWidth 32
  | .xreg r => readX r s
  | .exp i => (expRom.getD i 0).setWidth 32
  | .log i => BitVec.ofNat 32 (logRom.getD i 0)
  | .blk i => blkWord i
  | .align i => alignWord i
  | .entry a => (readByte a s).setWidth 32
  | .cell r c => cellWord r c s
  | .unmapped => 0

/-- A host read (R60, R64, R67): only the read-data port changes, and the draw counter where the value is a draw. -/
def hostRead (a : Addr) (s : State) : State :=
  let t := targetOf a.toNat
  if busy s && !t.stable then { s with rdata := Config.busyRead s.draws, draws := s.draws + 1 }
  else { s with rdata := wordAt t s }

/-- The acceptance of command word `w` (R66); its atomic step is due after `latency` further cycles. -/
def accept (w : Word) (latency : Nat) (s : State) : State :=
  { s with pend := some w, cmdRead := w, done := false, wait := latency }

/-- A host write while the engine is idle (R63, R66, R68 to R70): ROM, read-only, MATRIX, reserved and unmapped words
ignore it. -/
def idleWrite (t : Target) (w : Word) (s : State) : State :=
  match t with
  | .ctrl => { s with ie := w.getLsbD 0 }
  | .status => statusWrite w s
  | .cmd => { accept w (Config.extraLatency s.draws w) s with draws := s.draws + 1 }
  | .cfg => { s with
      version := w.extractLsb' 0 6, ec := w.extractLsb' 6 2, maskSel := w.extractLsb' 8 4, fill := w.getLsbD 12 }
  | .dlen => { s with dlen := w.setWidth 13 }
  | .cwlen => { s with cwlen := w.setWidth 13 }
  | .plen p => setPlen p w.toNat s
  | .xreg r => setX r w s
  | .entry a => writeBytes a [w.setWidth 8] s
  | .mstat | .rmask | .fmtw | .verw | .penalty | .score _ | .exp _ | .log _ | .blk _ | .align _ | .cell _ _
  | .unmapped => s

/-- A host write (R67): while BUSY = 1 only CTRL and STATUS are written, every other write is dropped and sets HAZ. -/
def hostWrite (a : Addr) (w : Word) (s : State) : State :=
  let t := targetOf a.toNat
  if busy s && t ≠ .ctrl && t ≠ .status then { s with haz := true } else idleWrite t w s

/-- The reset input (R290, R291): R50's values, a pending command abandoned, the unspecified registers free values
(logs 1, 2, 3). The read-data port and the model's own fields go on (logs 7, 8, 15). -/
def resetEvent (s : State) : State :=
  { State.reset with
    x := Vector.ofFn fun i => Config.resetX (s.epoch + 1) i.val
    rdata := s.rdata
    inbox := s.inbox
    draws := s.draws
    epoch := s.epoch + 1 }

/-- One entry of the inbox takes effect. -/
def hostAct (op : BusOp) (s : State) : State :=
  match op with
  | .idle => s
  | .read a => hostRead a s
  | .write a w => hostWrite a w s
  | .reset => resetEvent s

end Sys2Proof.Machine
end

