-- ==== Sys2Proof/Machine/Dispatch.lean ====
section
/-! DEFINITION. The meaning of each command, one arm per constructor of Instr. Every meaning ends the command, with
success (spec/60_exceptions.md R263) or with a fault taken (R262). -/

namespace Sys2Proof.Machine

-- exec performs the atomic step of a command, completion included (R23).
def exec (i : Instr) (s : State) : Host.Outcome State Fault Refusal :=
  match i with
  | .nop => Sys2Proof.Machine.execNop s
  | .gexp rd ra => Sys2Proof.Machine.execGexp rd ra s
  | .glog rd ra => Sys2Proof.Machine.execGlog rd ra s
  | .gfmul rd ra rb => Sys2Proof.Machine.execGfmul rd ra rb s
  | .pnorm pd pa shift => Sys2Proof.Machine.execPnorm pd pa shift s
  | .pmul pd pa pb => Sys2Proof.Machine.execPmul pd pa pb s
  | .pmod pd pa pb => Sys2Proof.Machine.execPmod pd pa pb s
  | .rsgen pd n => Sys2Proof.Machine.execRsgen pd n s
  | .rsenc => Sys2Proof.Machine.execRsenc s
  | .bchfmt rd ra => Sys2Proof.Machine.execBchfmt rd ra s
  | .bchver rd ra => Sys2Proof.Machine.execBchver rd ra s
  | .minit => Sys2Proof.Machine.execMinit s
  | .mplace => Sys2Proof.Machine.execMplace s
  | .mscore rd => Sys2Proof.Machine.execMscore rd s
  | .mbuild => Sys2Proof.Machine.execMbuild s
  | .mpred rd ra rb m => Sys2Proof.Machine.execMpred rd ra rb m s

end Sys2Proof.Machine
end

