-- ==== Sys2Proof/Machine/Engine.lean ====
section
/-! DEFINITION. The engine's part of a clock cycle (spec/10_state.md R23): the atomic step of the pending command. -/

namespace Sys2Proof.Machine

/-- The atomic step of command word `w`: decoded when it executes (spec/20_memory.md R66), an illegal word taking the
fault ILLEGAL_COMMAND (spec/30_encoding.md R98, spec/60_exceptions.md R261). -/
def runCommand (w : Word) (s : State) : Host.Outcome State Fault Refusal :=
  match decode w with
  | .ok i => exec i s
  | .error _ => raise .illegalCommand s

/-- The engine's turn in a cycle that began with PEND = `pend` and `wait` cycles to go; `s` is the state after the
host's access of the cycle (spec/70_reset_and_hazards.md R305, R306). -/
def engineTurn (pend : Option Word) (wait : Nat) (s : State) : Host.Outcome State Fault Refusal :=
  match pend with
  | none => .next s
  | some w => if wait = 0 then runCommand w s else .next { s with wait := wait - 1 }

/-- One clock cycle in which the host does `op`: a reset ends the cycle (R291, log 7); otherwise the host's access comes
first and the engine's turn after it, a command accepted in this cycle waiting for a later one (R305). In the cycle of a
completion R306 gives that order for a read and for a write of CTRL or STATUS; for a write of any other word, CMD among
them, the spec gives none, and that it too comes first, so that it is dropped and sets HAZ, is a DESIGN CHOICE
(log 18). -/
def cycle (op : BusOp) (s : State) : Host.Outcome State Fault Refusal :=
  match op with
  | .reset => .next (hostAct .reset s)
  | .idle | .read _ | .write _ _ => engineTurn s.pend s.wait (hostAct op s)

/-- The state in which the command whose `nbits` low bits are those of `w` runs in the very next cycle: accepted as
R66 says, no cycle to wait, and the host idle in that cycle (log 6). -/
def placeCommand (s : State) (nbits w : Nat) : State :=
  { accept (BitVec.ofNat 32 (w % 2 ^ nbits)) 0 s with inbox := .idle :: s.inbox }

end Sys2Proof.Machine
end

