-- ==== Sys2Proof/Machine/Step.lean ====
section
/-! DEFINITION. One step of the machine: one clock cycle (logs 5, 6). -/

namespace Sys2Proof.Machine

/-- One clock cycle: the host does the first entry of the inbox, nothing where the inbox is empty. -/
def step (s : State) : Host.Outcome State Fault Refusal :=
  match s.inbox with
  | [] => cycle .idle s
  | op :: rest => cycle op { s with inbox := rest }

/-- QRE does not fetch (spec/10_state.md R26): the host gives it each command. This is the state in which the next
step runs the command word `w` (log 6). -/
def State.withFetchWord (s : State) (nbits w : Nat) : State := placeCommand s nbits w

end Sys2Proof.Machine
end

