-- ==== Sys2Proof/Safety.lean ====
section
/-! DEFINITION. The terms in which claims are made: what a good state is (`State.Inv`), which part of the state a
command may write, and reference notions written without the model's tables and loops (powers of the generator, the
field product by shift and add, evaluation of a polynomial). -/

namespace Sys2Proof.Machine

/-! ## Decoding -/

/-- The match and mask columns of spec/30_encoding.md R96 for the command an instruction is. -/
def rowOf : Instr → Word × Word
  | .nop => (0x00000000, 0xFFFFFFFF)
  | .gexp .. => (0x04000000, 0xFC0FFFFF)
  | .glog .. => (0x08000000, 0xFC0FFFFF)
  | .gfmul .. => (0x0C000000, 0xFC01FFFF)
  | .pnorm .. => (0x20000000, 0xFC300FFF)
  | .pmul .. => (0x24000000, 0xFC0FFFFF)
  | .pmod .. => (0x28000000, 0xFC0FFFFF)
  | .rsgen .. => (0x2C000000, 0xFCF00FFF)
  | .rsenc => (0x40000000, 0xFFFFFFFF)
  | .bchfmt .. => (0x60000000, 0xFC0FFFFF)
  | .bchver .. => (0x64000000, 0xFC0FFFFF)
  | .minit => (0x80000000, 0xFFFFFFFF)
  | .mplace => (0x84000000, 0xFFFFFFFF)
  | .mscore .. => (0x88000000, 0xFC7FFFFF)
  | .mbuild => (0x8C000000, 0xFFFFFFFF)
  | .mpred .. => (0x90000000, 0xFC003FFF)

/-- The sixteen rows of R96, (match, mask). -/
def opcodeRows : List (Word × Word) :=
  [(0x00000000, 0xFFFFFFFF), (0x04000000, 0xFC0FFFFF), (0x08000000, 0xFC0FFFFF), (0x0C000000, 0xFC01FFFF),
   (0x20000000, 0xFC300FFF), (0x24000000, 0xFC0FFFFF), (0x28000000, 0xFC0FFFFF), (0x2C000000, 0xFCF00FFF),
   (0x40000000, 0xFFFFFFFF), (0x60000000, 0xFC0FFFFF), (0x64000000, 0xFC0FFFFF), (0x80000000, 0xFFFFFFFF),
   (0x84000000, 0xFFFFFFFF), (0x88000000, 0xFC7FFFFF), (0x8C000000, 0xFFFFFFFF), (0x90000000, 0xFC003FFF)]

/-- `w` is the one word that decodes to `i`. -/
def IsOnlyWordOf (w : Word) (i : Instr) : Prop := ∀ w', decode w' = .ok i ↔ w' = w

/-! ## Reference arithmetic -/

/-- The next entry of the EXP table (spec/40_gf.md R110): shift left, subtract 0x11D where bit 8 appears. -/
def xtime (b : Byte) : Byte :=
  BitVec.ofNat 8 (if (2 * b.toNat).testBit 8 then 2 * b.toNat ^^^ 0x11D else 2 * b.toNat)

/-- `α^n` with `α = 0x02` (R110), by the recurrence and no table. -/
def alphaPow : Nat → Byte
  | 0 => 1
  | n + 1 => xtime (alphaPow n)

/-- `x^k · a` in GF(256). -/
def xtimes (a : Byte) : Nat → Byte
  | 0 => a
  | k + 1 => xtime (xtimes a k)

/-- The product of GF(256) by shift and add: no logarithms. -/
def mulRef (a b : Byte) : Byte := xorSum ((List.range 8).map fun k => if b.getLsbD k then xtimes a k else 0)

/-- The value at `x` of a polynomial, highest degree first, by Horner's rule. -/
def polyEval (l : List Byte) (x : Byte) : Byte := l.foldl (fun v c => gmul v x ^^^ c) 0

/-- Product of two naturals as polynomials over GF(2). -/
def clmul (a : Nat) : Nat → Nat → Nat
  | 0, _ => 0
  | fuel + 1, b => (if b % 2 = 1 then a else 0) ^^^ clmul (2 * a) fuel (b / 2)

/-! ## Positions in the stream and in the walk -/

/-- Position of entry `j` of list `n` among lists of lengths `ls` emitted column by column, each column in list order
(spec/42_rs.md R157): the entries of the columns before `j`, then those of column `j` in the lists before `n`. -/
def columnPos (ls : List Nat) (n j : Nat) : Nat := (ls.map (min j)).sum + (ls.take n).countP (j < ·)

/-- Index of the visit of `(r, c)`, `c ≠ 6`, in the zig-zag walk of an `n × n` matrix (spec/44_matrix.md R212). The pairs
right of column 6 have an even right column, those left of it an odd one; pairs numbered from 0, the even ones go up. -/
def walkIndex (n r c : Nat) : Nat :=
  let right := if 6 < c then c + c % 2 else c + 1 - c % 2
  let pair := if 6 < c then (n - 1 - right) / 2 else (n - 7) / 2 + (5 - right) / 2
  2 * n * pair + 2 * (if pair % 2 = 0 then n - 1 - r else r) + (right - c)

/-- The alignment centre `(ar, ac)` is drawn in version `v` (R194): both coordinates in the version's list, and not one
of the three whose pattern would lie in a finder. -/
def isDrawnCentre (v ar ac : Nat) : Prop :=
  ar ∈ alignPositions v ∧ ac ∈ alignPositions v ∧
    (ar, ac) ≠ (6, 6) ∧ (ar, ac) ≠ (6, sideOf v - 7) ∧ (ar, ac) ≠ (sideOf v - 7, 6)

/-- `(r, c)` inside the matrix is a function cell of version `v` (R198): the corner squares of the finders with their
separators, format cells and the dark module, the timing row and column, the alignment patterns, the version blocks. -/
def isFunctionCell (v r c : Nat) : Prop :=
  let n := sideOf v
  (r ≤ 8 ∧ c ≤ 8) ∨ (r ≤ 8 ∧ n - 8 ≤ c) ∨ (n - 8 ≤ r ∧ c ≤ 8) ∨ r = 6 ∨ c = 6 ∨
    (∃ ar ac, isDrawnCentre v ar ac ∧ ar ≤ r + 2 ∧ r ≤ ar + 2 ∧ ac ≤ c + 2 ∧ c ≤ ac + 2) ∨
    (7 ≤ v ∧ ((r ≤ 5 ∧ n - 11 ≤ c ∧ c ≤ n - 9) ∨ (n - 11 ≤ r ∧ r ≤ n - 9 ∧ c ≤ 5)))

/-! ## What a command may write -/

/-- The X register an instruction may write (spec/10_state.md R24). -/
def destX : Instr → Option (Fin 8)
  | .gexp rd _ | .glog rd _ | .gfmul rd _ _ | .bchfmt rd _ | .bchver rd _ | .mscore rd | .mpred rd _ _ _ => some rd
  | .nop | .pnorm .. | .pmul .. | .pmod .. | .rsgen .. | .rsenc | .minit | .mplace | .mbuild => none

/-- The polynomial register an instruction may write (R44). -/
def destP : Instr → Option (Fin 4)
  | .pnorm pd _ _ | .pmul pd _ _ | .pmod pd _ _ | .rsgen pd _ => some pd
  | .nop | .gexp .. | .glog .. | .gfmul .. | .rsenc | .bchfmt .. | .bchver .. | .minit | .mplace | .mscore ..
  | .mbuild | .mpred .. => none

/-- The instruction may change the matrix (spec/20_memory.md R70). -/
def writesMatrix : Instr → Bool
  | .minit | .mplace | .mbuild => true
  | .nop | .gexp .. | .glog .. | .gfmul .. | .pnorm .. | .pmul .. | .pmod .. | .rsgen .. | .rsenc | .bchfmt ..
  | .bchver .. | .mscore .. | .mpred .. => false

/-- The entry address `a` is among those a command stores to: `PR[pd][i]` for `i` below the new length, which is
`PLEN[pd]` of the state `t` after it (R44, R132), and `CW[i]` for `i < total(v)` (R46); `s` is the state before it. -/
def storesTo (i : Instr) (s t : State) (a : Nat) : Prop :=
  match i with
  | .pnorm pd _ _ | .pmul pd _ _ | .pmod pd _ _ | .rsgen pd _ => prAddr pd 0 ≤ a ∧ a < prAddr pd (plenOf pd t)
  | .rsenc => cwBase ≤ a ∧ a < cwBase + totalOf (versionOf s)
  | .nop | .gexp .. | .glog .. | .gfmul .. | .bchfmt .. | .bchver .. | .minit | .mplace | .mscore .. | .mbuild
  | .mpred .. => False

/-- The bits a host write stores in a writable word (R29, R32, R34, R35, R39, R63); `none` for words that are not plain
read/write registers. -/
def storedBits : Target → Option Word
  | .ctrl => some 0x1
  | .cfg | .dlen | .cwlen => some 0x1FFF
  | .plen _ => some 0x1FF
  | .xreg _ => some 0xFFFFFFFF
  | .entry _ => some 0xFF
  | .status | .cmd | .mstat | .rmask | .fmtw | .verw | .penalty | .score _ | .exp _ | .log _ | .blk _ | .align _
  | .cell _ _ | .unmapped => none

/-! ## Good states -/

/-- The cell is one whose shade a placement rewrites: a format or version cell (spec/44_matrix.md R195, R197). -/
def isInfoCell (v r c : Nat) : Bool := (r, c) ∈ allFmtCells (sideOf v) ∨ (r, c) ∈ allVerCells v

/-- What MATRIX holds while MAT_VER = v (spec/10_state.md R36, R47, R48): nothing for v = 0; otherwise the N×N cells,
their func plane that of version v, function cells assigned and, format and version cells apart, as MINIT drew them,
data cells UNSET exactly until a placement. -/
def MatrixOk (v : Nat) (placed : Bool) (m : Matrix) : Prop :=
  (v = 0 → m = []) ∧
  (v ≠ 0 → m.length = sideOf v ∧ (∀ row ∈ m, row.length = sideOf v) ∧
    ∀ r, r < sideOf v → ∀ c, c < sideOf v →
      (m.cell r c).func = (funcCell v r c).func ∧
      ((m.cell r c).func = true → (m.cell r c).shade ≠ .unset) ∧
      ((m.cell r c).func = true → isInfoCell v r c = false → m.cell r c = funcCell v r c) ∧
      ((m.cell r c).func = false → ((m.cell r c).shade = .unset ↔ placed = false)))

/-- The invariant of QRE's state. -/
structure State.Inv (s : State) : Prop where
  /-- PR, DATA and CW are in canonical form (log 2). -/
  mem_wf : s.mem.wf
  /-- ERRCODE is 0 exactly while ERR = 0: a fault writes both, the host clears both (R30). -/
  errcode_iff : s.err = false ↔ s.errcode = .none
  /-- While a command is pending DONE = 0 (spec/20_memory.md R66). -/
  busy_not_done : s.pend.isSome = true → s.done = false
  /-- MAT_VER is 0 or a legal version (R36). -/
  matVer_le : s.matVer.toNat ≤ 40
  /-- RMASK.VALID and MSTAT.PLACED agree (R36, R37). -/
  valid_iff_placed : s.maskValid = s.placed
  /-- Only a matrix that holds a version can be placed (R36). -/
  placed_version : s.placed = true → s.matVer ≠ 0
  /-- The matrix is that of MAT_VER (R36, R47). -/
  matrix_ok : MatrixOk s.matVer.toNat s.placed s.matrix

/-- What MPLACE needs to place (R215): a legal version whose function patterns the matrix holds, a fixed mask, and a
stream of the version's length. -/
def CanPlace (s : State) : Prop :=
  legalVersion (versionOf s) = true ∧ s.maskSel.toNat ≤ 7 ∧ s.matVer = s.version ∧ s.cwlen.toNat = totalOf (versionOf s)

end Sys2Proof.Machine
end

