-- ==== Sys2Proof/Certificates/Slice0/Obligations.lean ====
section
/-! DEFINITION. The statements for the provers. Each docstring names the rule of spec/ it formalises; a clause that
rests on the model's own choice names its log entry. -/

open Sys2Proof Sys2Proof.Machine

/-! ## Encoding -/

/-- R90 to R95, R100: no bit of an encoding is dropped. -/
def Obligations.DecodeEncodeRoundTrip : Prop := ∀ i : Instr, i.WellFormed → decode (encode i) = .ok i

/-- R96, R99, R100: each word has one meaning, and every decoded operand fits its field. -/
def Obligations.EachWordHasOneMeaning : Prop := ∀ w i, decode w = .ok i → i.WellFormed ∧ encode i = w

/-- R96: "a word w is the command exactly when w & mask = match", for each of the sixteen rows. -/
def Obligations.DecodeFollowsOpcodeTable : Prop :=
  (∀ i, rowOf i ∈ opcodeRows) ∧
  ∀ row ∈ opcodeRows, ∀ w, (∃ i, decode w = .ok i ∧ rowOf i = row) ↔ w &&& row.2 = row.1

/-- R101 and section 6.7 of 95_test_vectors.md: the spec's own example words. -/
def Obligations.ExampleWordsDecode : Prop :=
  decode 0x00000000 = .ok .nop ∧ decode 0x40000000 = .ok .rsenc ∧ decode 0x80000000 = .ok .minit ∧
  decode 0x04A00000 = .ok (.gexp 1 2) ∧ decode 0x0D940000 = .ok (.gfmul 3 1 2) ∧
  decode 0x8A000000 = .ok (.mscore 4) ∧ decode 0x91954000 = .ok (.mpred 3 1 2 5) ∧
  decode 0x21002000 = .ok (.pnorm 1 0 2) ∧ decode 0x2B600000 = .ok (.pmod 3 1 2) ∧
  decode 0x2E002000 = .ok (.rsgen 2 2) ∧ decode 0x60800000 = .ok (.bchfmt 1 0)

/-! ## The cycle -/

/-- R23, R60, R65, R305, R306: what a cycle without a reset does. The host's access of the cycle, a read, a write or none,
comes first; then, on the state it leaves, the engine does nothing where no command was pending, counts down where one
is not yet due, and runs the due command: the meaning of the instruction it decodes to, of an illegal word the fault
(IllegalWordTakesFault). That one step is one cycle, that the access is the first entry of the inbox, the countdown
`wait`, and that in the cycle of a completion a write of a word other than CTRL and STATUS comes first too are the
model's choice (logs 5, 6, 18). -/
def Obligations.StepRunsDecodedCommand : Prop :=
  (∀ s : State, hostAct .idle s = s ∧ (∀ a, hostAct (.read a) s = hostRead a s) ∧
    ∀ a w, hostAct (.write a w) s = hostWrite a w s) ∧
  ∀ s : State, s.inbox.headD .idle ≠ .reset →
    let accessed := hostAct (s.inbox.headD .idle) { s with inbox := s.inbox.tail }
    (s.pend = none → step s = .next accessed) ∧
    ∀ w : Word, s.pend = some w →
      (s.wait ≠ 0 → step s = .next { accessed with wait := s.wait - 1 }) ∧
      (s.wait = 0 → step s = runCommand w accessed ∧ ∀ i : Instr, decode w = .ok i → step s = exec i accessed)

/-- R98, R261: a word outside the sixteen rows completes with ILLEGAL_COMMAND and changes nothing else; the all-zero
word is NOP, the all-one word is illegal. -/
def Obligations.IllegalWordTakesFault : Prop :=
  (∀ (s : State) (w : Word), (∀ row ∈ opcodeRows, w &&& row.2 ≠ row.1) →
    runCommand w s = .next { s with pend := none, done := true, err := true, errcode := .illegalCommand }) ∧
  decode 0 = .ok .nop ∧ ∀ row ∈ opcodeRows, (0xFFFFFFFF : Word) &&& row.2 ≠ row.1

/-- R23, R305: a pending command completes: `wait + 1` cycles after, and no earlier, whatever the host does short of a
reset. The countdown `wait`, the inbox the host's accesses come from, and that a write of CMD in the last of these
cycles is dropped are the model's choice (logs 5, 6, 18). -/
def Obligations.CommandCompletesWhenDue : Prop :=
  ∀ (s : State) (w : Word), s.pend = some w → (∀ op ∈ s.inbox, op ≠ .reset) →
    (∀ k, k ≤ s.wait → ∃ t, core.run k s = .next t ∧ t.pend = some w) ∧
    ∃ t, core.run (s.wait + 1) s = .next t ∧ t.pend = none ∧ t.done = true

/-- R290, R291: a reset abandons the pending command: every field the spec gives a reset value takes it, no command
runs and none is pending. The values of X0..X7 and the fields of the model's own are the model's choice (logs 1, 7, 8, 15). -/
def Obligations.ResetAbandonsPendingCommand : Prop :=
  ∀ (s : State) (rest : List BusOp), s.inbox = .reset :: rest → ∃ x,
    step s = .next { State.reset with
      x := x, rdata := s.rdata, inbox := rest, draws := s.draws, epoch := s.epoch + 1 }

/-- R50: the values the spec gives for reset. -/
def Obligations.ResetValues : Prop :=
  let s := State.reset
  s.ie = false ∧ statusWord s = 0 ∧ s.pend = none ∧ s.cmdRead = 0 ∧ cfgWord s = 0 ∧ s.dlen = 0 ∧ s.cwlen = 0 ∧
  mstatWord s = 0 ∧ rmaskWord s = 0 ∧ s.fmtw = 0 ∧ s.verw = 0 ∧ s.penalty = 0 ∧ (∀ k, s.score.get k = 0) ∧
  (∀ p, s.plen.get p = 0) ∧ irq s = false

/-! ## The host's accesses -/

/-- R66: a write of CMD. Idle: the word is captured, the read-back shows it, DONE falls, BUSY rises, nothing else of the
spec's state changes (`wait` and `draws` are the model's, logs 5, 15). Busy: the write is dropped and HAZ set. The word
is not decoded, so this holds for illegal words too. -/
def Obligations.CommandIssue : Prop :=
  ∀ (s : State) (w : Word),
    (s.pend = none → ∃ l d, hostWrite 0x002 w s =
      { s with pend := some w, cmdRead := w, done := false, wait := l, draws := d }) ∧
    (s.pend ≠ none → hostWrite 0x002 w s = { s with haz := true })

/-- R67: while BUSY = 1 a write to CTRL or STATUS takes effect as usual, every other write is dropped and sets HAZ; a
read of CTRL, STATUS, CMD, a ROM word or an unmapped word returns its defined value, so that a poll of STATUS shows
BUSY = 1; any read has no other effect than on the read-data port and the model's draw counter (logs 4, 8). -/
def Obligations.BusyRules : Prop :=
  ∀ (s : State) (a : Addr) (w : Word), s.pend ≠ none →
    (hostWrite 0x000 w s = { s with ie := w.getLsbD 0 }) ∧
    (hostWrite 0x001 w s = statusWrite w s) ∧
    (a ≠ 0x000 → a ≠ 0x001 → hostWrite a w s = { s with haz := true }) ∧
    (a = 0x000 ∨ a = 0x001 ∨ a = 0x002 ∨ (0x100 ≤ a.toNat ∧ a.toNat < 0x300) ∨ (0x400 ≤ a.toNat ∧ a.toNat < 0x540) ∨
        (0x600 ≤ a.toNat ∧ a.toNat < 0x740) ∨ targetOf a.toNat = .unmapped →
      hostRead a s = { s with rdata := wordAt (targetOf a.toNat) s }) ∧
    (hostRead 0x001 s).rdata.getLsbD 0 = true ∧
    ∃ v d, hostRead a s = { s with rdata := v, draws := d }

/-- R68, R269, R306: W1C of DONE, ERR with ERRCODE, and HAZ, idle or busy; a word whose bits 3:1 are 0 changes nothing.
In the cycle of a completion the write comes first: the command runs on the state the write leaves, so the write cannot
lose the new DONE, nor the ERR and ERRCODE of a fault, while what a success leaves of ERR and ERRCODE, and HAZ, are as
the write left them. That the cycle is a step with `wait = 0` and the write first in the inbox is the model's choice
(logs 5, 6). -/
def Obligations.StatusWriteClears : Prop :=
  (∀ (s : State) (w : Word), hostWrite 0x001 w s =
    { s with
      done := if w.getLsbD 1 then false else s.done
      err := if w.getLsbD 2 then false else s.err
      errcode := if w.getLsbD 2 then .none else s.errcode
      haz := if w.getLsbD 3 then false else s.haz }) ∧
  (∀ (s : State) (w : Word), w.extractLsb' 1 3 = 0 → hostWrite 0x001 w s = s) ∧
  ∀ (s : State) (c w : Word) (rest : List BusOp), s.pend = some c → s.wait = 0 → s.inbox = .write 0x001 w :: rest →
    step s = runCommand c (statusWrite w { s with inbox := rest }) ∧
    ∃ t, step s = .next t ∧ t.done = true ∧ t.haz = (if w.getLsbD 3 then false else s.haz) ∧
      ((t.err = true ∧ t.errcode ≠ .none) ∨
        (t.err = (if w.getLsbD 2 then false else s.err) ∧ t.errcode = if w.getLsbD 2 then .none else s.errcode))

/-- R64: no read changes what any word holds, and idle, a repeated read returns the same value; a repeated write to any
word but CMD and STATUS changes nothing more. -/
def Obligations.ReadsHaveNoSideEffects : Prop :=
  (∀ (s : State) (a : Addr) (t : Target), wordAt t (hostRead a s) = wordAt t s) ∧
  (∀ (s : State) (a b : Addr), s.pend = none →
    (hostRead a (hostRead b (hostRead a s))).rdata = (hostRead a s).rdata) ∧
  ∀ (s : State) (a : Addr) (w : Word), a ≠ 0x001 → a ≠ 0x002 → hostWrite a w (hostWrite a w s) = hostWrite a w s

/-- R60, R63, R64, R75: idle, a read returns the defined value of its word and changes nothing else; a write to a
read/write word stores the bits the word holds and ignores the others, so that reading it back gives the stored bits in
their places and 0 elsewhere; every other word, STATUS among them, reads as before, and the engine stays idle. That the
value read stands in the field `rdata` is the model's choice (log 8). -/
def Obligations.ReadBackAfterWrite : Prop :=
  ∀ (s : State) (a : Addr), s.pend = none →
    hostRead a s = { s with rdata := wordAt (targetOf a.toNat) s } ∧
    ∀ w bits : Word, storedBits (targetOf a.toNat) = some bits →
      (hostWrite a w s).pend = none ∧
      (hostRead a (hostWrite a w s)).rdata = w &&& bits ∧
      ∀ b : Addr, b ≠ a → (hostRead b (hostWrite a w s)).rdata = (hostRead b s).rdata

/-- R69, R70: idle, a write to a reserved, unmapped, ROM, read-only or MATRIX word changes nothing, and a reserved or
unmapped word reads 0 in every state. -/
def Obligations.ReadOnlyWordsIgnoreWrites : Prop :=
  (∀ (s : State) (a : Addr) (w : Word), s.pend = none → storedBits (targetOf a.toNat) = none →
    a ≠ 0x001 → a ≠ 0x002 → hostWrite a w s = s) ∧
  ∀ (s : State) (a : Addr), targetOf a.toNat = .unmapped → hostRead a s = { s with rdata := 0 }

/-- R40 to R47, R61: where the ROMs, the byte arrays and the matrix stand, the unmapped ranges between them (those of the
page of control registers: SpecialRegisterWords), and what the ROM words are: the powers of 0x02
and their exponents, the groups of the block table, count in bits 7:0, total in 15:8, data in 23:16, and the alignment
positions, ascending, 0 past their end, the first 6 and the last `N - 7`. That the two tables are the spec's, which R10
lets a model vary, is the model's choice (log 10). -/
def Obligations.AddressMapAndRoms : Prop :=
  (∀ (s : State) (i : Nat), i < 256 → wordAt (targetOf (0x100 + i)) s = (alphaPow i).setWidth 32) ∧
  (∀ (s : State) (i : Nat), i < 255 →
    wordAt (targetOf (0x200 + (alphaPow i).toNat)) s = BitVec.ofNat 32 i) ∧
  (∀ s : State, wordAt (targetOf 0x200) s = 0) ∧
  (∀ (s : State) (v ec g : Nat), 1 ≤ v → v ≤ 40 → ec < 4 → g < 2 →
    wordAt (targetOf (0x400 + 2 * ((v - 1) * 4 + ec) + g)) s =
      match (blockRow v ec)[g]? with
      | some x => 0#8 ++ BitVec.ofNat 8 x.data ++ BitVec.ofNat 8 x.total ++ BitVec.ofNat 8 x.count
      | none => 0) ∧
  (∀ (s : State) (v i : Nat), 1 ≤ v → v ≤ 40 → i < 8 →
    wordAt (targetOf (0x600 + 8 * (v - 1) + i)) s = BitVec.ofNat 32 ((alignPositions v).getD i 0)) ∧
  (∀ v, 1 ≤ v → v ≤ 40 → (alignPositions v).Pairwise (· < ·) ∧ (alignPositions v).length < 8 ∧
    (v = 1 → alignPositions v = []) ∧
    (2 ≤ v → (alignPositions v).head? = some 6 ∧ (alignPositions v).getLast? = some (sideOf v - 7))) ∧
  (∀ (p : Fin 4) (i : Nat), i < 256 → targetOf (prAddr p i) = .entry (prAddr p i)) ∧
  (∀ k, k < 4096 → targetOf (dataBase + k) = .entry (dataBase + k) ∧ targetOf (cwBase + k) = .entry (cwBase + k)) ∧
  (∀ r c, r < 256 → c < 256 →
    targetOf (cellAddr r c) = if r < 177 ∧ c < 177 then .cell r c else .unmapped) ∧
  ∀ a, (0x300 ≤ a ∧ a < 0x400) ∨ (0x540 ≤ a ∧ a < 0x600) ∨ (0x740 ≤ a ∧ a < 0x1000) ∨ (0x1400 ≤ a ∧ a < 0x2000) ∨
    (0x4000 ≤ a ∧ a < 0x10000) → targetOf a = .unmapped

/-- R28 to R39, R47, R62: where the control and status registers stand, and the layout of every word a host reads of
them and of the matrix. While MAT_VER = 0 a matrix word is only known to have its bits 31:3 zero (log 3); BUSY is "a
command is pending" (log 17). -/
def Obligations.SpecialRegisterWords : Prop :=
  (∀ s : State,
    wordAt (targetOf 0x000) s = 0#31 ++ BitVec.ofBool s.ie ∧
    wordAt (targetOf 0x001) s = 0#20 ++ BitVec.ofNat 4 s.errcode.num ++ 0#4 ++ BitVec.ofBool s.haz ++
      BitVec.ofBool s.err ++ BitVec.ofBool s.done ++ BitVec.ofBool s.pend.isSome ∧
    wordAt (targetOf 0x002) s = s.cmdRead ∧
    wordAt (targetOf 0x003) s = 0#19 ++ BitVec.ofBool s.fill ++ s.maskSel ++ s.ec ++ s.version ∧
    wordAt (targetOf 0x004) s = 0#19 ++ s.dlen ∧
    wordAt (targetOf 0x005) s = 0#19 ++ s.cwlen ∧
    wordAt (targetOf 0x006) s = 0#23 ++ BitVec.ofBool s.placed ++ 0#2 ++ s.matVer ∧
    wordAt (targetOf 0x007) s = 0#23 ++ BitVec.ofBool s.maskValid ++ 0#5 ++ s.maskUsed ∧
    wordAt (targetOf 0x008) s = 0#17 ++ s.fmtw ∧
    wordAt (targetOf 0x009) s = 0#14 ++ s.verw ∧
    wordAt (targetOf 0x00A) s = s.penalty ∧
    (∀ k : Fin 8, wordAt (targetOf (0x010 + k.val)) s = s.score.get k) ∧
    (∀ p : Fin 4, wordAt (targetOf (0x018 + p.val)) s = 0#23 ++ s.plen.get p) ∧
    (∀ r : Fin 8, wordAt (targetOf (0x020 + r.val)) s = s.x.get r) ∧
    (∀ r c, r < 177 → c < 177 → (wordAt (targetOf (cellAddr r c)) s).toNat < 8 ∧
      (s.matVer ≠ 0 → wordAt (targetOf (cellAddr r c)) s =
        0#29 ++ BitVec.ofBool (s.matrix.cell r c).func ++
          (match (s.matrix.cell r c).shade with | .unset => 0#2 | .light => 1#2 | .dark => 2#2)))) ∧
  ([FaultCode.none, .invalidParameter, .invalidData, .dataOverflow, .internal, .illegalCommand, .sequence].map
    FaultCode.num) = [0, 1, 2, 3, 4, 5, 6] ∧
  ∀ a, 0x00A < a → a < 0x100 → (a < 0x010 ∨ 0x01B < a) → (a < 0x020 ∨ 0x027 < a) → targetOf a = .unmapped

/-- R268: the interrupt line is the level `IE ∧ DONE`; it follows every completion, of an illegal word too, with or
without a fault, exactly when IE = 1, and falls when the next command is accepted or DONE is cleared. -/
def Obligations.InterruptLine : Prop :=
  (∀ s : State, irq s = true ↔ s.ie = true ∧ s.done = true) ∧
  (∀ (i : Instr) (s t : State), exec i s = .next t → irq t = s.ie) ∧
  (∀ (w : Word) (s t : State), runCommand w s = .next t → irq t = s.ie) ∧
  (∀ (s : State) (w : Word), s.pend = none → irq (hostWrite 0x002 w s) = false) ∧
  ∀ (s : State) (w : Word), w.getLsbD 1 = true → irq (hostWrite 0x001 w s) = false

/-! ## What every command does, and what none does -/

/-- R262, R263: every command ends. A fault leaves the state before the command but for STATUS; success leaves ERR and
ERRCODE. -/
def Obligations.CommandsCompleteOrFaultPrecisely : Prop :=
  ∀ (i : Instr) (s : State), ∃ t, exec i s = .next t ∧
    ((∃ code, code ≠ FaultCode.none ∧
        t = { s with pend := none, done := true, err := true, errcode := code }) ∨
      (t.pend = none ∧ t.done = true ∧ t.err = s.err ∧ t.errcode = s.errcode))

/-- R24: GEXP, GLOG, GFMUL, BCHFMT, BCHVER, MSCORE and MPRED may write their rd; no command touches another X register. -/
def Obligations.ScalarRegisterFrame : Prop :=
  ∀ (i : Instr) (s t : State) (r : Fin 8), exec i s = .next t → destX i ≠ some r → t.x.get r = s.x.get r

/-- R44, R45, R46, R132: every byte of PR, DATA and CW outside the ones a command stores reads as before: the new
polynomial's entries for a polynomial command, `CW[0..total-1]` for RSENC, none for any other. -/
def Obligations.ByteArrayFrame : Prop :=
  ∀ (i : Instr) (s t : State) (a : Nat), i.WellFormed → exec i s = .next t → ¬ storesTo i s t a →
    readByte a t = readByte a s

/-- R27, R39, R70, R243: no command writes CTRL, HAZ, CMD, CFG or DLEN; that none writes the read-data port or the
model's own fields `inbox`, `wait`, `draws` and `epoch` rests on the model's choice of them (logs 5, 6, 8, 15); only RSENC writes CWLEN; only a polynomial command writes its own PLEN; only MINIT, MPLACE and MBUILD write the matrix
and the registers that describe it; only MBUILD writes PENALTY and SCORE. -/
def Obligations.ControlFrame : Prop :=
  ∀ (i : Instr) (s t : State), exec i s = .next t →
    (t.ie = s.ie ∧ t.haz = s.haz ∧ t.cmdRead = s.cmdRead ∧ t.version = s.version ∧ t.ec = s.ec ∧
      t.maskSel = s.maskSel ∧ t.fill = s.fill ∧ t.dlen = s.dlen ∧ t.rdata = s.rdata ∧ t.inbox = s.inbox ∧
      t.wait = s.wait ∧ t.draws = s.draws ∧ t.epoch = s.epoch) ∧
    (i ≠ .rsenc → t.cwlen = s.cwlen) ∧
    (∀ p, destP i ≠ some p → t.plen.get p = s.plen.get p) ∧
    (writesMatrix i = false → t.matrix = s.matrix ∧ t.matVer = s.matVer ∧ t.placed = s.placed ∧
      t.maskUsed = s.maskUsed ∧ t.maskValid = s.maskValid ∧ t.fmtw = s.fmtw ∧ t.verw = s.verw) ∧
    (i ≠ .mbuild → t.penalty = s.penalty ∧ t.score = s.score)

/-! ## Field arithmetic -/

/-- R113: NOP is the word 0 and only completes; every other word with its opcode is illegal. -/
def Obligations.NopResult : Prop :=
  IsOnlyWordOf 0x00000000 .nop ∧ (∀ w, opcodeOf w = 0 → w ≠ 0 → decode w = .error .nonzeroField) ∧ ∀ s : State, exec .nop s = .next { s with pend := none, done := true }

/-- R114: `x[rd] <- α^(x[ra] mod 255)`, for every operand, `rd = ra` too. -/
def Obligations.GexpResult : Prop :=
  ∀ rd ra : Fin 8,
    IsOnlyWordOf (BitVec.ofNat 32 (0x04000000 + rd.val * 2 ^ 23 + ra.val * 2 ^ 20)) (.gexp rd ra) ∧
    ∀ s : State, exec (.gexp rd ra) s = .next { s with
      x := s.x.set rd ((alphaPow ((s.x.get ra).toNat % 255)).setWidth 32), pend := none, done := true }

/-- R115: above 255 INVALID_PARAMETER, 0 INTERNAL, otherwise the exponent in 0..254 of the power of α the operand is. -/
def Obligations.GlogResult : Prop :=
  ∀ rd ra : Fin 8,
    IsOnlyWordOf (BitVec.ofNat 32 (0x08000000 + rd.val * 2 ^ 23 + ra.val * 2 ^ 20)) (.glog rd ra) ∧
    ∀ s : State,
      ((s.x.get ra).toNat > 255 →
        exec (.glog rd ra) s = .next { s with pend := none, done := true, err := true, errcode := .invalidParameter }) ∧
      (s.x.get ra = 0 →
        exec (.glog rd ra) s = .next { s with pend := none, done := true, err := true, errcode := .internal }) ∧
      (1 ≤ (s.x.get ra).toNat → (s.x.get ra).toNat ≤ 255 →
        ∃ k, k < 255 ∧ (alphaPow k).toNat = (s.x.get ra).toNat ∧
          exec (.glog rd ra) s = .next { s with x := s.x.set rd (BitVec.ofNat 32 k), pend := none, done := true })

/-- R116, R117: the product of the field, computed without logarithms, for operands that are field elements; otherwise
INVALID_PARAMETER. -/
def Obligations.GfmulResult : Prop :=
  ∀ rd ra rb : Fin 8,
    IsOnlyWordOf (BitVec.ofNat 32 (0x0C000000 + rd.val * 2 ^ 23 + ra.val * 2 ^ 20 + rb.val * 2 ^ 17))
      (.gfmul rd ra rb) ∧
    ∀ s : State,
      ((s.x.get ra).toNat > 255 ∨ (s.x.get rb).toNat > 255 →
        exec (.gfmul rd ra rb) s =
          .next { s with pend := none, done := true, err := true, errcode := .invalidParameter }) ∧
      ((s.x.get ra).toNat ≤ 255 → (s.x.get rb).toNat ≤ 255 →
        exec (.gfmul rd ra rb) s = .next { s with
          x := s.x.set rd ((mulRef ((s.x.get ra).setWidth 8) ((s.x.get rb).setWidth 8)).setWidth 32)
          pend := none, done := true })

/-- R112: `gexp(n)` is the power of α with exponent `n mod 255` for any integer; `glog(0)` fails, and `gexp` and `glog`
invert each other. -/
def Obligations.ExpAndLogInvert : Prop :=
  (∀ n : Int, gexp n = alphaPow (n % 255).toNat) ∧ glog 0 = none ∧
  (∀ b : Byte, b ≠ 0 → ∃ k, glog b = some k ∧ k < 255 ∧ gexp k = b) ∧
  ∀ k : Nat, glog (gexp k) = some (k % 255)

/-- R116: the product of non-zero factors adds their logarithms; it obeys the laws of a field, and is 0 only when a
factor is. -/
def Obligations.FieldProductLaws : Prop :=
  ∀ a b c : Byte, (a ≠ 0 → b ≠ 0 → ∃ i j : Nat, glog a = some i ∧ glog b = some j ∧ gmul a b = gexp (i + j)) ∧
    gmul a b = gmul b a ∧ gmul (gmul a b) c = gmul a (gmul b c) ∧ gmul 1 a = a ∧
    gmul a (b ^^^ c) = gmul a b ^^^ gmul a c ∧ (gmul a b = 0 ↔ a = 0 ∨ b = 0)

/-! ## Polynomials -/

/-- R133: the faults in their order; an all-zero source gives `[0]`; otherwise the leading zeros go and `shift` zeros
come. -/
def Obligations.PnormResult : Prop :=
  ∀ (pd pa : Fin 4) (shift : Nat), shift < 256 →
    IsOnlyWordOf (BitVec.ofNat 32 (0x20000000 + pd.val * 2 ^ 24 + pa.val * 2 ^ 22 + shift * 2 ^ 12))
      (.pnorm pd pa shift) ∧
    ∀ s : State,
      (256 < (s.plen.get pa).toNat → exec (.pnorm pd pa shift) s =
        .next { s with pend := none, done := true, err := true, errcode := .invalidParameter }) ∧
      (s.plen.get pa = 0 → exec (.pnorm pd pa shift) s =
        .next { s with pend := none, done := true, err := true, errcode := .internal }) ∧
      (0 < (s.plen.get pa).toNat → (s.plen.get pa).toNat ≤ 256 →
        ((∀ b ∈ polyOf pa s, b = 0) → exec (.pnorm pd pa shift) s = .next { s with
          mem := s.mem.setList (prAddr pd 0) [0], plen := s.plen.set pd 1, pend := none, done := true }) ∧
        ∀ k c cs, polyOf pa s = List.replicate k 0 ++ c :: cs → c ≠ 0 →
          (cs.length + 1 + shift ≤ 256 → exec (.pnorm pd pa shift) s = .next { s with
            mem := s.mem.setList (prAddr pd 0) (c :: cs ++ List.replicate shift 0)
            plen := s.plen.set pd (BitVec.ofNat 9 (cs.length + 1 + shift)), pend := none, done := true }) ∧
          (256 < cs.length + 1 + shift → exec (.pnorm pd pa shift) s =
            .next { s with pend := none, done := true, err := true, errcode := .dataOverflow }))

/-- R135: the faults in their order; for sources with no zero coefficient the `la + lb - 1` coefficients of the product,
no stripping being needed. -/
def Obligations.PmulResult : Prop :=
  ∀ pd pa pb : Fin 4,
    IsOnlyWordOf (BitVec.ofNat 32 (0x24000000 + pd.val * 2 ^ 24 + pa.val * 2 ^ 22 + pb.val * 2 ^ 20))
      (.pmul pd pa pb) ∧
    ∀ s : State,
      let a := polyOf pa s
      let b := polyOf pb s
      let la := (s.plen.get pa).toNat
      let lb := (s.plen.get pb).toNat
      (256 < la ∨ 256 < lb → exec (.pmul pd pa pb) s =
        .next { s with pend := none, done := true, err := true, errcode := .invalidParameter }) ∧
      (la ≤ 256 → lb ≤ 256 →
        (la = 0 ∨ lb = 0 → exec (.pmul pd pa pb) s =
          .next { s with pend := none, done := true, err := true, errcode := .internal }) ∧
        (0 < la → 0 < lb →
          (256 < la + lb - 1 → exec (.pmul pd pa pb) s =
            .next { s with pend := none, done := true, err := true, errcode := .dataOverflow }) ∧
          (la + lb - 1 ≤ 256 →
            (0 ∈ a ∨ 0 ∈ b → exec (.pmul pd pa pb) s =
              .next { s with pend := none, done := true, err := true, errcode := .internal }) ∧
            (0 ∉ a → 0 ∉ b → ∃ c : List Byte, c.length = la + lb - 1 ∧
              (∀ x, polyEval c x = gmul (polyEval a x) (polyEval b x)) ∧
              exec (.pmul pd pa pb) s = .next { s with
                mem := s.mem.setList (prAddr pd 0) c
                plen := s.plen.set pd (BitVec.ofNat 9 (la + lb - 1)), pend := none, done := true }))))

/-- R136, R137: the faults in their order; no iteration where the dividend's degree is below the divisor's, its zero
coefficients then harmless; otherwise the remainder: normalised, of smaller degree, and differing from the dividend by a
multiple of the divisor (all degrees are at most 255, so the 256 values of a polynomial determine it). -/
def Obligations.PmodResult : Prop :=
  ∀ pd pa pb : Fin 4,
    IsOnlyWordOf (BitVec.ofNat 32 (0x28000000 + pd.val * 2 ^ 24 + pa.val * 2 ^ 22 + pb.val * 2 ^ 20))
      (.pmod pd pa pb) ∧
    ∀ s : State,
      let a := polyOf pa s
      let b := polyOf pb s
      let la := (s.plen.get pa).toNat
      let lb := (s.plen.get pb).toNat
      (256 < la ∨ 256 < lb → exec (.pmod pd pa pb) s =
        .next { s with pend := none, done := true, err := true, errcode := .invalidParameter }) ∧
      (la ≤ 256 → lb ≤ 256 →
        (la = 0 ∨ lb = 0 ∨ b.head? = some 0 → exec (.pmod pd pa pb) s =
          .next { s with pend := none, done := true, err := true, errcode := .internal }) ∧
        (0 < la → 0 < lb → b.head? ≠ some 0 →
          (deg b ≤ deg a → 0 ∈ b → exec (.pmod pd pa pb) s =
            .next { s with pend := none, done := true, err := true, errcode := .internal }) ∧
          (deg a < deg b → exec (.pmod pd pa pb) s = .next { s with
            mem := s.mem.setList (prAddr pd 0) (strip a)
            plen := s.plen.set pd (BitVec.ofNat 9 (strip a).length), pend := none, done := true }) ∧
          (0 ∉ b → ∃ r : List Byte, deg r < deg b ∧ strip r = r ∧ r.length ≤ 256 ∧
            (∃ q : List Byte, q.length + b.length ≤ 257 ∧ ∀ x, polyEval a x = gmul (polyEval q x) (polyEval b x) ^^^ polyEval r x) ∧
            exec (.pmod pd pa pb) s = .next { s with
              mem := s.mem.setList (prAddr pd 0) r
              plen := s.plen.set pd (BitVec.ofNat 9 r.length), pend := none, done := true })))

/-- R139, R140: RSGEN writes the `n + 1` coefficients, the first 1, of the product of `x - α^i` for `i < n`. -/
def Obligations.RsgenResult : Prop :=
  ∀ (pd : Fin 4) (n : Nat), n < 256 →
    IsOnlyWordOf (BitVec.ofNat 32 (0x2C000000 + pd.val * 2 ^ 24 + n * 2 ^ 12)) (.rsgen pd n) ∧
    ∃ g : List Byte, g.length = n + 1 ∧ g.head? = some 1 ∧
      (∀ x, polyEval g x = (List.range n).foldl (fun v i => gmul v (x ^^^ alphaPow i)) 1) ∧
      ∀ s : State, exec (.rsgen pd n) s = .next { s with
        mem := s.mem.setList (prAddr pd 0) g
        plen := s.plen.set pd (BitVec.ofNat 9 (n + 1)), pend := none, done := true }

/-! ## Reed–Solomon -/

/-- R153, R156: the faults in their order; otherwise CW holds the stream of `total(v)` codewords, data blocks then EC
blocks interleaved, CWLEN its length, and nothing else changes. -/
def Obligations.RsencResult : Prop :=
  IsOnlyWordOf 0x40000000 .rsenc ∧
  ∀ s : State,
    let v := s.version.toNat
    let cap := capacity v s.ec.toNat
    let stream := rsStream v s.ec.toNat (readBytes dataBase cap s)
    (v = 0 ∨ 40 < v → exec .rsenc s =
      .next { s with pend := none, done := true, err := true, errcode := .invalidParameter }) ∧
    (1 ≤ v → v ≤ 40 →
      (cap < s.dlen.toNat → exec .rsenc s =
        .next { s with pend := none, done := true, err := true, errcode := .dataOverflow }) ∧
      (s.dlen.toNat < cap → exec .rsenc s =
        .next { s with pend := none, done := true, err := true, errcode := .invalidData }) ∧
      (s.dlen.toNat = cap → stream.length = totalOf v ∧
        exec .rsenc s = .next { s with
          mem := s.mem.setList cwBase stream, cwlen := BitVec.ofNat 13 (totalOf v), pend := none, done := true }))

/-- R156, R157: which codeword CW holds at each position after RSENC. Block `n` has the next `data` codewords of DATA; its
data codeword `j` stands at its place in the data columns, its EC codeword `j` (EcBlocksAreReedSolomonCodewords says what
it is) at its place in the EC columns, which begin after all data codewords. -/
def Obligations.RsencCodewordPositions : Prop :=
  ∀ s : State, legalVersion (versionOf s) = true → s.dlen.toNat = capacity (versionOf s) s.ec.toNat →
    let blocks := rsBlocks (versionOf s) s.ec.toNat
    ∃ t, exec .rsenc s = .next t ∧
      ∀ (n total data : Nat), blocks[n]? = some (total, data) →
        let start := dataBase + ((blocks.take n).map Prod.snd).sum
        (∀ j, j < data →
          readByte (cwBase + columnPos (blocks.map Prod.snd) n j) t = readByte (start + j) s) ∧
        ∀ j, j < total - data →
          readByte (cwBase + s.dlen.toNat + columnPos (blocks.map fun b => b.1 - b.2) n j) t =
            (ecblock (readBytes start data s) (total - data)).getD j 0

/-- R154, R155: for every block of every version and EC level and any data codewords, the EC codewords are `total -
data` in number and make the block a Reed–Solomon codeword: its polynomial vanishes at every root of the generator. -/
def Obligations.EcBlocksAreReedSolomonCodewords : Prop :=
  ∀ v ec, 1 ≤ v → v ≤ 40 → ec < 4 → ∀ b ∈ rsBlocks v ec, ∀ d : List Byte, d.length = b.2 →
    (ecblock d (b.1 - b.2)).length = b.1 - b.2 ∧
    ∀ i, i < b.1 - b.2 → polyEval (d ++ ecblock d (b.1 - b.2)) (alphaPow i) = 0

/-- R159: a host gets a block's EC codewords from PNORM, RSGEN and PMOD, left-padding the remainder. -/
def Obligations.RsencAgreesWithPolynomialCommands : Prop :=
  ∀ (s : State) (pa pn pg pr : Fin 4) (e : Nat), pn ≠ pg → e ≤ 30 → 0 < plenOf pa s → plenOf pa s + e ≤ 256 →
    ∃ s1 s2 s3, exec (.pnorm pn pa e) s = .next s1 ∧ exec (.rsgen pg e) s1 = .next s2 ∧
      exec (.pmod pr pn pg) s2 = .next s3 ∧
      let r := if polyOf pr s3 = [0] then [] else polyOf pr s3
      ecblock (polyOf pa s) e = zeros (e - r.length) ++ r

/-- R157: the position of every codeword in the interleaved columns of a row whose first `n1` blocks have `k` entries
and whose other `n2` blocks have `k + 1`. -/
def Obligations.InterleaveColumns : Prop :=
  ∀ (short long : List (List Byte)) (k : Nat), (∀ b ∈ short, b.length = k) → (∀ b ∈ long, b.length = k + 1) →
    (columns (short ++ long)).length = k * (short.length + long.length) + long.length ∧
    (∀ j n, j < k → n < short.length + long.length →
      (columns (short ++ long))[j * (short.length + long.length) + n]? = ((short ++ long).getD n [])[j]?) ∧
    ∀ n, n < long.length →
      (columns (short ++ long))[k * (short.length + long.length) + n]? = (long.getD n [])[k]?

/-- R150, R158: in every row the groups share one EC length, the shorter group first, and the codewords of the row are
the version's total, data and EC codewords together. -/
def Obligations.BlockTableTotals : Prop :=
  ∀ v, v < 40 → ∀ ec, ec < 4 →
    ((rsBlocks (v + 1) ec).map Prod.fst).sum = totalOf (v + 1) ∧
    capacity (v + 1) ec + ((rsBlocks (v + 1) ec).map fun b => b.1 - b.2).sum = totalOf (v + 1) ∧
    ((blockRow (v + 1) ec).map fun g => g.total - g.data).dedup.length = 1 ∧
    (blockRow (v + 1) ec).Pairwise (fun g h => h.total = g.total + 1)

/-! ## BCH -/

/-- R171, R178: above 31 INVALID_PARAMETER; otherwise the 15-bit word whose bits before the XOR with 0x5412 are the data
followed by a remainder that makes them a multiple of 0x537; it is 0x5412 for 0, and never 0. -/
def Obligations.BchfmtResult : Prop :=
  ∀ rd ra : Fin 8,
    IsOnlyWordOf (BitVec.ofNat 32 (0x60000000 + rd.val * 2 ^ 23 + ra.val * 2 ^ 20)) (.bchfmt rd ra) ∧
    ∀ s : State,
      (31 < (s.x.get ra).toNat → exec (.bchfmt rd ra) s =
        .next { s with pend := none, done := true, err := true, errcode := .invalidParameter }) ∧
      ((s.x.get ra).toNat ≤ 31 → ∃ c q, c < 2 ^ 15 ∧ c >>> 10 = (s.x.get ra).toNat ∧ c = clmul 0x537 5 q ∧
        (s.x.get ra = 0 → c ^^^ 0x5412 = 0x5412) ∧ c ^^^ 0x5412 ≠ 0 ∧
        exec (.bchfmt rd ra) s = .next { s with
          x := s.x.set rd (BitVec.ofNat 32 (c ^^^ 0x5412)), pend := none, done := true })

/-- R176, R179: above 63 INVALID_PARAMETER; otherwise the 18-bit word whose high bits are the data and which is a
multiple of 0x1F25. -/
def Obligations.BchverResult : Prop :=
  ∀ rd ra : Fin 8,
    IsOnlyWordOf (BitVec.ofNat 32 (0x64000000 + rd.val * 2 ^ 23 + ra.val * 2 ^ 20)) (.bchver rd ra) ∧
    ∀ s : State,
      (63 < (s.x.get ra).toNat → exec (.bchver rd ra) s =
        .next { s with pend := none, done := true, err := true, errcode := .invalidParameter }) ∧
      ((s.x.get ra).toNat ≤ 63 → ∃ c q, c < 2 ^ 18 ∧ c >>> 12 = (s.x.get ra).toNat ∧ c = clmul 0x1F25 6 q ∧
        exec (.bchver rd ra) s = .next { s with
          x := s.x.set rd (BitVec.ofNat 32 c), pend := none, done := true })

/-- R170: the remainder is shorter than the divisor and differs from `x` by a multiple of it. -/
def Obligations.BchRemainder : Prop :=
  ∀ x g : Nat, 0 < g → bitlen (bchrem x g) < bitlen g ∧ ∃ fuel q, x = clmul g fuel q ^^^ bchrem x g

/-- R173 to R175, R177: the 32 format words, by EC code and mask, and the 34 version words; two different words of
either table differ in at least 7 and in at least 8 bits, and a pair at each of these distances exists. -/
def Obligations.BchWordTables : Prop :=
  let distance := fun a b : Nat => (List.range 18).countP fun k => (a ^^^ b).testBit k
  ((List.range 4).map fun ec => (List.range 8).map fun m => fmtword ec m) =
    [[0x77C4, 0x72F3, 0x7DAA, 0x789D, 0x662F, 0x6318, 0x6C41, 0x6976],
     [0x5412, 0x5125, 0x5E7C, 0x5B4B, 0x45F9, 0x40CE, 0x4F97, 0x4AA0],
     [0x355F, 0x3068, 0x3F31, 0x3A06, 0x24B4, 0x2183, 0x2EDA, 0x2BED],
     [0x1689, 0x13BE, 0x1CE7, 0x19D0, 0x0762, 0x0255, 0x0D0C, 0x083B]] ∧
  ((List.range 34).map fun v => bch18 (v + 7)) =
    [0x07C94, 0x085BC, 0x09A99, 0x0A4D3, 0x0BBF6, 0x0C762, 0x0D847, 0x0E60D, 0x0F928, 0x10B78, 0x1145D, 0x12A17,
     0x13532, 0x149A6, 0x15683, 0x168C9, 0x177EC, 0x18EC4, 0x191E1, 0x1AFAB, 0x1B08E, 0x1CC1A, 0x1D33F, 0x1ED75,
     0x1F250, 0x209D5, 0x216F0, 0x228BA, 0x2379F, 0x24B0B, 0x2542E, 0x26A64, 0x27541, 0x28C69] ∧
  (∀ d, d < 32 → ∀ e, e < d → 7 ≤ distance (bch15 d) (bch15 e)) ∧
  (∃ d e, d < 32 ∧ e < d ∧ distance (bch15 d) (bch15 e) = 7) ∧
  (∀ v, v < 34 → ∀ u, u < v → 8 ≤ distance (bch18 (v + 7)) (bch18 (u + 7))) ∧
  ∃ v u, v < 34 ∧ u < v ∧ distance (bch18 (v + 7)) (bch18 (u + 7)) = 8

/-! ## Matrix -/

/-- R203, R205: the predicate of each mask number on the two coordinates; above 255 INVALID_PARAMETER. -/
def Obligations.MpredResult : Prop :=
  ∀ (rd ra rb : Fin 8) (m : Nat), m < 8 →
    IsOnlyWordOf
      (BitVec.ofNat 32 (0x90000000 + rd.val * 2 ^ 23 + ra.val * 2 ^ 20 + rb.val * 2 ^ 17 + m * 2 ^ 14))
      (.mpred rd ra rb m) ∧
    ∀ s : State,
      let i := (s.x.get ra).toNat
      let j := (s.x.get rb).toNat
      (255 < i ∨ 255 < j → exec (.mpred rd ra rb m) s =
        .next { s with pend := none, done := true, err := true, errcode := .invalidParameter }) ∧
      (i ≤ 255 → j ≤ 255 → ∃ b : Bool,
        (b = true ↔ (m = 0 ∧ (i + j) % 2 = 0) ∨ (m = 1 ∧ i % 2 = 0) ∨ (m = 2 ∧ j % 3 = 0) ∨
          (m = 3 ∧ (i + j) % 3 = 0) ∨ (m = 4 ∧ (i / 2 + j / 3) % 2 = 0) ∨
          (m = 5 ∧ i * j % 2 + i * j % 3 = 0) ∨ (m = 6 ∧ (i * j % 2 + i * j % 3) % 2 = 0) ∨
          (m = 7 ∧ (i * j % 3 + (i + j) % 2) % 2 = 0)) ∧
        exec (.mpred rd ra rb m) s = .next { s with
          x := s.x.set rd (if b then 1 else 0), pend := none, done := true })

/-- R201: an illegal version INVALID_PARAMETER; otherwise the function patterns of the version, MAT_VER, PLACED 0 and
VALID 0, and nothing else: RMASK.MASK, FMTW, VERW, PENALTY and SCORE keep their values. -/
def Obligations.MinitResult : Prop :=
  IsOnlyWordOf 0x80000000 .minit ∧
  ∀ s : State,
    (s.version = 0 ∨ 40 < s.version.toNat → exec .minit s =
      .next { s with pend := none, done := true, err := true, errcode := .invalidParameter }) ∧
    (1 ≤ s.version.toNat → s.version.toNat ≤ 40 → exec .minit s = .next { s with
      matrix := buildfunc s.version.toNat, matVer := s.version, placed := false, maskValid := false
      pend := none, done := true })

/-- R190 to R200: what the function patterns of a version hold: nothing outside N; in each finder a dark ring, a light
ring and a dark core, light separators; timing; an alignment pattern at every pair of the version's positions but the
three in the finders; LIGHT placeholders at the format and version cells; the dark module. These are all: inside N a
cell is a function cell exactly where one of these patterns lies, and every other cell is UNSET with func = 0. -/
def Obligations.FunctionPatternCells : Prop :=
  ∀ v, 1 ≤ v → v ≤ 40 →
    let n := sideOf v
    let m := buildfunc v
    (∀ r c, n ≤ r ∨ n ≤ c → m.cell r c = MCell.blank) ∧
    (∀ o ∈ finderOrigins n, ∀ dr dc, dr ≤ 6 → dc ≤ 6 →
      m.cell (o.1 + dr) (o.2 + dc) =
        ⟨shadeOf (dr = 0 ∨ dr = 6 ∨ dc = 0 ∨ dc = 6 ∨ (2 ≤ dr ∧ dr ≤ 4 ∧ 2 ≤ dc ∧ dc ≤ 4)), true⟩) ∧
    (∀ k, k ≤ 7 → ∀ p ∈ [(7, k), (k, 7), (n - 8, k), (n - 1 - k, 7), (7, n - 1 - k), (k, n - 8)],
      m.cell p.1 p.2 = ⟨.light, true⟩) ∧
    (∀ k, 8 ≤ k → k + 9 ≤ n → m.cell 6 k = ⟨shadeOf (k % 2 = 0), true⟩ ∧ m.cell k 6 = ⟨shadeOf (k % 2 = 0), true⟩) ∧
    (∀ ar ac, isDrawnCentre v ar ac → ∀ dr dc, dr ≤ 4 → dc ≤ 4 →
      m.cell (ar + dr - 2) (ac + dc - 2) =
        ⟨shadeOf (dr = 0 ∨ dr = 4 ∨ dc = 0 ∨ dc = 4 ∨ (dr = 2 ∧ dc = 2)), true⟩) ∧
    (∀ i, i < 15 → ∀ p ∈ fmtCells n i, m.cell p.1 p.2 = ⟨.light, true⟩) ∧
    (7 ≤ v → ∀ i, i < 18 → ∀ p ∈ verCells n i, m.cell p.1 p.2 = ⟨.light, true⟩) ∧
    m.cell (n - 8) 8 = ⟨.dark, true⟩ ∧
    ∀ r c, r < n → c < n →
      ((m.cell r c).func = true ↔ isFunctionCell v r c) ∧ (¬ isFunctionCell v r c → m.cell r c = MCell.blank)

/-- R214, R215: the faults in their order; otherwise the placement, PLACED, RMASK, FMTW and VERW, and nothing else. -/
def Obligations.MplaceResult : Prop :=
  IsOnlyWordOf 0x84000000 .mplace ∧
  ∀ s : State,
    let v := s.version.toNat
    (v = 0 ∨ 40 < v ∨ 7 < s.maskSel.toNat → exec .mplace s =
      .next { s with pend := none, done := true, err := true, errcode := .invalidParameter }) ∧
    (1 ≤ v → v ≤ 40 → s.maskSel.toNat ≤ 7 →
      (s.matVer ≠ s.version → exec .mplace s =
        .next { s with pend := none, done := true, err := true, errcode := .sequence }) ∧
      (s.matVer = s.version →
        (s.cwlen.toNat ≠ totalOf v → exec .mplace s =
          .next { s with pend := none, done := true, err := true, errcode := .invalidData }) ∧
        (s.cwlen.toNat = totalOf v → exec .mplace s = .next { s with
          matrix := placeall v s.ec.toNat s.maskSel.toNat (codewords s) s.matrix
          placed := true, maskUsed := s.maskSel.setWidth 3, maskValid := true
          fmtw := BitVec.ofNat 15 (fmtword s.ec.toNat s.maskSel.toNat)
          verw := if 7 ≤ v then BitVec.ofNat 18 (bch18 v) else 0
          pend := none, done := true })))

/-- R211, R212, R213, R217: after MPLACE the k-th data cell of the zig-zag order (ZigzagVisitsEachCellOnce says where a
cell stands in it) holds bit `7 - k mod 8` of `CW[k/8]`, or 0 past the `8·total(v)` bits of the stream, XORed with the
mask predicate; it stays a data cell. -/
def Obligations.PlacedDataCells : Prop :=
  ∀ s : State, s.Inv → CanPlace s → ∃ t, exec .mplace s = .next t ∧
    ∀ k r c, ((zigzag (sideOf (versionOf s))).filter fun p => !(s.matrix.cell p.1 p.2).func)[k]? = some (r, c) →
      t.matrix.cell r c =
        ⟨shadeOf ((decide (k < 8 * totalOf (versionOf s)) && (readByte (cwBase + k / 8) s).getLsbD (7 - k % 8)) ^^
          maskPred s.maskSel.toNat r c), false⟩

/-- R195, R196, R197, R204, R216: after MPLACE both cells of each format bit and, from version 7 on, of each version
bit show that bit of FMTW and VERW; the dark module is dark; every other function cell is as MINIT drew it, unmasked;
no cell inside N is left UNSET, and none outside N is touched. -/
def Obligations.PlacedFunctionCells : Prop :=
  ∀ s : State, s.Inv → CanPlace s → ∃ t, exec .mplace s = .next t ∧
    let v := versionOf s
    let n := sideOf v
    (∀ i, i < 15 → ∀ p ∈ fmtCells n i, t.matrix.cell p.1 p.2 = ⟨shadeOf (t.fmtw.getLsbD i), true⟩) ∧
    (7 ≤ v → ∀ i, i < 18 → ∀ p ∈ verCells n i, t.matrix.cell p.1 p.2 = ⟨shadeOf (t.verw.getLsbD i), true⟩) ∧
    t.matrix.cell (n - 8) 8 = ⟨.dark, true⟩ ∧
    (∀ r c, r < n → c < n → isInfoCell v r c = false → (funcCell v r c).func = true →
      t.matrix.cell r c = funcCell v r c) ∧
    (∀ r c, r < n → c < n → (t.matrix.cell r c).shade ≠ .unset) ∧
    ∀ r c, n ≤ r ∨ n ≤ c → t.matrix.cell r c = MCell.blank

/-- R212: the zig-zag walk visits every cell of the matrix once, but for column 6, which it never visits, and each at its
place: pairs of columns from the right, the first pair upward and the direction alternating, the right column of a pair
first in each row. -/
def Obligations.ZigzagVisitsEachCellOnce : Prop :=
  ∀ v, 1 ≤ v → (zigzag (sideOf v)).Nodup ∧ (zigzag (sideOf v)).length = sideOf v * (sideOf v - 1) ∧
    (∀ r c, (r, c) ∈ zigzag (sideOf v) ↔ r < sideOf v ∧ c < sideOf v ∧ c ≠ 6) ∧
    ∀ r c, r < sideOf v → c < sideOf v → c ≠ 6 → (zigzag (sideOf v))[walkIndex (sideOf v) r c]? = some (r, c)

/-- R210, R215 (and the source's invariant I2 of 95_test_vectors.md): a placement with another mask and EC level before
it makes no difference to a placement: no MINIT is needed between. -/
def Obligations.RepeatedPlacementForgetsTheFirst : Prop :=
  ∀ (s : State) (m : BitVec 4) (e : BitVec 2), s.Inv → CanPlace s → m.toNat ≤ 7 →
    ∃ t u d, exec .mplace { s with maskSel := m, ec := e } = .next t ∧
      exec .mplace { t with maskSel := s.maskSel, ec := s.ec } = .next u ∧ exec .mplace s = .next d ∧
      u.matrix = d.matrix ∧ u.fmtw = d.fmtw ∧ u.verw = d.verw ∧ u.maskUsed = d.maskUsed

/-! ## Penalty and mask selection -/

/-- R230, R238: SEQUENCE without a placement; otherwise the penalty of the matrix of MAT_VER, whatever CFG says. -/
def Obligations.MscoreResult : Prop :=
  ∀ rd : Fin 8,
    IsOnlyWordOf (BitVec.ofNat 32 (0x88000000 + rd.val * 2 ^ 23)) (.mscore rd) ∧
    ∀ s : State,
      (s.matVer = 0 ∨ s.placed = false → exec (.mscore rd) s =
        .next { s with pend := none, done := true, err := true, errcode := .sequence }) ∧
      (s.matVer ≠ 0 → s.placed = true → exec (.mscore rd) s = .next { s with
        x := s.x.set rd (BitVec.ofNat 32 (penaltyOf (4 * s.matVer.toNat + 17) (isDark s.matrix)))
        pend := none, done := true })

/-- R231 to R235: the four rules, over all rows and all columns of a picture, and their sum. A line's run points: each
maximal run of `L ≥ 5` adds `L - 2` (so 5 adds 3, 6 adds 4, 10 adds 8); each 2×2 block of equal cells adds 3 (so a 3×3
square 12); each window of 11 cells equal to one of the two patterns adds 40 (so `0000 1011101 0000`, which holds both,
80); the dark balance, with the spec's points for N = 21. -/
def Obligations.PenaltyRuleAmounts : Prop :=
  (∀ n b, runPoints (List.replicate n b) = if 5 ≤ n then n - 2 else 0) ∧
  (∀ l b n, 1 ≤ n →
    runPoints (l ++ [!b] ++ List.replicate n b) = runPoints (l ++ [!b]) + if 5 ≤ n then n - 2 else 0) ∧
  ([4, 5, 6, 10].map fun n => runPoints (List.replicate n true)) = [0, 3, 4, 8] ∧
  (∀ l : List Bool, windowCount l = ((Finset.range l.length).filter fun s =>
    (l.drop s).take 11 = [true, false, true, true, true, false, true, false, false, false, false] ∨
    (l.drop s).take 11 = [false, false, false, false, true, false, true, true, true, false, true]).card) ∧
  windowCount ([false, false, false, false, true, false, true, true, true, false, true, false, false, false, false]) = 2 ∧
  (∀ b : Bool, penalty2 3 (fun _ _ => b) = 12) ∧
  [0, 1, 22, 23, 198, 199, 242, 243, 264, 265, 440, 441].map (fun d => balance d 441) =
    [100, 90, 90, 80, 10, 0, 0, 10, 10, 20, 90, 100] ∧
  ∀ (n : Nat) (g : Nat → Nat → Bool),
    let row := fun r => (List.range n).map fun c => g r c
    let col := fun c => (List.range n).map fun r => g r c
    penalty1 n g = ∑ k ∈ Finset.range n, (runPoints (row k) + runPoints (col k)) ∧
    penalty2 n g = 3 * ((Finset.range (n - 1) ×ˢ Finset.range (n - 1)).filter fun p =>
      g p.1 p.2 = g p.1 (p.2 + 1) ∧ g p.1 p.2 = g (p.1 + 1) p.2 ∧ g p.1 p.2 = g (p.1 + 1) (p.2 + 1)).card ∧
    penalty3 n g = 40 * ∑ k ∈ Finset.range n, (windowCount (row k) + windowCount (col k)) ∧
    penalty4 n g = 10 *
      ((100 * (((Finset.range n ×ˢ Finset.range n).filter fun p => g p.1 p.2 = true).card : Int) - 50 * (n * n)).natAbs /
        (5 * (n * n))) ∧
    penaltyOf n g = penalty1 n g + penalty2 n g + penalty3 n g + penalty4 n g

/-- R235: the penalty of a picture of any version fits a 32-bit register. -/
def Obligations.PenaltyFits32Bits : Prop :=
  ∀ v, v ≤ 40 → ∀ g : Nat → Nat → Bool, penaltyOf (sideOf v) g < 2 ^ 32

/-- R236: the penalty depends only on which cells inside N are dark. -/
def Obligations.PenaltyDependsOnlyOnTheSymbol : Prop :=
  ∀ (n : Nat) (m m' : Matrix), (∀ r c, r < n → c < n → ((m.cell r c).shade = .dark ↔ (m'.cell r c).shade = .dark)) →
    penaltyOf n (isDark m) = penaltyOf n (isDark m')

/-- R240, R242: the faults in their order; with a fixed mask the placement by that mask, SCORE0..7 kept; with MASKSEL 8
the placement by the selected mask, SCORE0..7 the candidates' penalties; in both PENALTY is the final matrix's. -/
def Obligations.MbuildResult : Prop :=
  IsOnlyWordOf 0x8C000000 .mbuild ∧
  ∀ s : State,
    let v := s.version.toNat
    let final := fun best => placeall v s.ec.toNat best (codewords s) (buildfunc v)
    let scores := candidateScores v s.ec.toNat s.fill (codewords s)
    (v = 0 ∨ 40 < v ∨ 8 < s.maskSel.toNat → exec .mbuild s =
      .next { s with pend := none, done := true, err := true, errcode := .invalidParameter }) ∧
    (1 ≤ v → v ≤ 40 → s.maskSel.toNat ≤ 8 →
      (s.cwlen.toNat ≠ totalOf v → exec .mbuild s =
        .next { s with pend := none, done := true, err := true, errcode := .invalidData }) ∧
      (s.cwlen.toNat = totalOf v → ∃ best, best ≤ 7 ∧
        (s.maskSel ≠ 8 → best = s.maskSel.toNat) ∧ (s.maskSel = 8 → best = leastIndex scores) ∧
        ∃ sc : Vector Word 8, (s.maskSel ≠ 8 → sc = s.score) ∧
          (s.maskSel = 8 → ∀ k : Fin 8, sc.get k = BitVec.ofNat 32 (scores.getD k.val 0)) ∧
          exec .mbuild s = .next { s with
            matrix := final best, matVer := s.version, placed := true
            maskUsed := BitVec.ofNat 3 best, maskValid := true
            fmtw := BitVec.ofNat 15 (fmtword s.ec.toNat best)
            verw := if 7 ≤ v then BitVec.ofNat 18 (bch18 v) else 0
            penalty := BitVec.ofNat 32 (penaltyOf (sideOf v) (isDark (final best)))
            score := sc, pend := none, done := true }))

/-- R244: after an automatic MBUILD that succeeds, RMASK.MASK is the lowest-numbered mask with the least SCORE. -/
def Obligations.MbuildSelectsLeastPenalty : Prop :=
  ∀ s : State, legalVersion (versionOf s) = true → s.maskSel = 8 → s.cwlen.toNat = totalOf (versionOf s) →
    ∃ t, exec .mbuild s = .next t ∧
      (∀ k : Fin 8, (t.score.get ⟨t.maskUsed.toNat, t.maskUsed.isLt⟩).toNat ≤ (t.score.get k).toNat) ∧
      ∀ k : Fin 8, k.val < t.maskUsed.toNat →
        (t.score.get ⟨t.maskUsed.toNat, t.maskUsed.isLt⟩).toNat < (t.score.get k).toNat

/-- R242: MBUILD leaves the matrix, and the registers that describe it, as MINIT followed by MPLACE with MASKSEL at the
chosen mask does. -/
def Obligations.MbuildEqualsMinitThenMplace : Prop :=
  ∀ s : State, legalVersion (versionOf s) = true → s.maskSel.toNat ≤ 8 → s.cwlen.toNat = totalOf (versionOf s) →
    ∃ t a b, exec .mbuild s = .next t ∧ exec .minit s = .next a ∧
      exec .mplace { a with maskSel := t.maskUsed.setWidth 4 } = .next b ∧
      b.matrix = t.matrix ∧ b.matVer = t.matVer ∧ b.placed = t.placed ∧ b.maskUsed = t.maskUsed ∧
      b.maskValid = t.maskValid ∧ b.fmtw = t.fmtw ∧ b.verw = t.verw

/-- R241, R242: the candidate scores of an automatic MBUILD. With FILL = 0 SCOREk is the penalty of the placement with mask
k; with FILL = 1 it is the penalty of the same placement with every format cell, the dark module and every version cell
LIGHT. With FILL = 0 PENALTY equals the score of the chosen mask. -/
def Obligations.MbuildCandidateScores : Prop :=
  ∀ s : State, legalVersion (versionOf s) = true → s.maskSel = 8 → s.cwlen.toNat = totalOf (versionOf s) →
    let v := versionOf s
    let candidate := fun k => isDark (placeall v s.ec.toNat k (codewords s) (buildfunc v))
    ∃ t, exec .mbuild s = .next t ∧
      (s.fill = false →
        (∀ k : Fin 8, (t.score.get k).toNat = penaltyOf (sideOf v) (candidate k.val)) ∧
        t.penalty = t.score.get ⟨t.maskUsed.toNat, t.maskUsed.isLt⟩) ∧
      (s.fill = true → ∀ k : Fin 8, (t.score.get k).toNat =
        penaltyOf (sideOf v) fun r c =>
          candidate k.val r c && !isInfoCell v r c && !decide (r = sideOf v - 8 ∧ c = 8))

/-! ## The invariant -/

/-- The state after reset meets the invariant. -/
def Obligations.ResetMeetsInvariant : Prop := State.reset.Inv

/-- Every step keeps the invariant: memory in canonical form, ERR and ERRCODE together, DONE 0 while busy, the matrix
that of MAT_VER with every cell assigned once placed. -/
def Obligations.StepKeepsInvariant : Prop := ∀ s t : State, s.Inv → step s = .next t → t.Inv
end

