-- ==== Sys2Proof/Laws/State.lean ====
section
/-! SUPPORT. One lemma per field of State per named update: what the update leaves in the field. -/

namespace Sys2Proof.Machine

/-! ### setX -/

@[simp] theorem setX_ie (r : Fin 8) (v : Word) (s : State) : (setX r v s).ie = s.ie := rfl
@[simp] theorem setX_done (r : Fin 8) (v : Word) (s : State) : (setX r v s).done = s.done := rfl
@[simp] theorem setX_err (r : Fin 8) (v : Word) (s : State) : (setX r v s).err = s.err := rfl
@[simp] theorem setX_haz (r : Fin 8) (v : Word) (s : State) : (setX r v s).haz = s.haz := rfl
@[simp] theorem setX_errcode (r : Fin 8) (v : Word) (s : State) : (setX r v s).errcode = s.errcode := rfl
@[simp] theorem setX_pend (r : Fin 8) (v : Word) (s : State) : (setX r v s).pend = s.pend := rfl
@[simp] theorem setX_cmdRead (r : Fin 8) (v : Word) (s : State) : (setX r v s).cmdRead = s.cmdRead := rfl
@[simp] theorem setX_version (r : Fin 8) (v : Word) (s : State) : (setX r v s).version = s.version := rfl
@[simp] theorem setX_ec (r : Fin 8) (v : Word) (s : State) : (setX r v s).ec = s.ec := rfl
@[simp] theorem setX_maskSel (r : Fin 8) (v : Word) (s : State) : (setX r v s).maskSel = s.maskSel := rfl
@[simp] theorem setX_fill (r : Fin 8) (v : Word) (s : State) : (setX r v s).fill = s.fill := rfl
@[simp] theorem setX_dlen (r : Fin 8) (v : Word) (s : State) : (setX r v s).dlen = s.dlen := rfl
@[simp] theorem setX_cwlen (r : Fin 8) (v : Word) (s : State) : (setX r v s).cwlen = s.cwlen := rfl
@[simp] theorem setX_matVer (r : Fin 8) (v : Word) (s : State) : (setX r v s).matVer = s.matVer := rfl
@[simp] theorem setX_placed (r : Fin 8) (v : Word) (s : State) : (setX r v s).placed = s.placed := rfl
@[simp] theorem setX_maskUsed (r : Fin 8) (v : Word) (s : State) : (setX r v s).maskUsed = s.maskUsed := rfl
@[simp] theorem setX_maskValid (r : Fin 8) (v : Word) (s : State) : (setX r v s).maskValid = s.maskValid := rfl
@[simp] theorem setX_fmtw (r : Fin 8) (v : Word) (s : State) : (setX r v s).fmtw = s.fmtw := rfl
@[simp] theorem setX_verw (r : Fin 8) (v : Word) (s : State) : (setX r v s).verw = s.verw := rfl
@[simp] theorem setX_penalty (r : Fin 8) (v : Word) (s : State) : (setX r v s).penalty = s.penalty := rfl
@[simp] theorem setX_score (r : Fin 8) (v : Word) (s : State) : (setX r v s).score = s.score := rfl
@[simp] theorem setX_plen (r : Fin 8) (v : Word) (s : State) : (setX r v s).plen = s.plen := rfl
@[simp] theorem setX_x (r : Fin 8) (v : Word) (s : State) : (setX r v s).x = s.x.set r v := rfl
@[simp] theorem setX_mem (r : Fin 8) (v : Word) (s : State) : (setX r v s).mem = s.mem := rfl
@[simp] theorem setX_matrix (r : Fin 8) (v : Word) (s : State) : (setX r v s).matrix = s.matrix := rfl
@[simp] theorem setX_rdata (r : Fin 8) (v : Word) (s : State) : (setX r v s).rdata = s.rdata := rfl
@[simp] theorem setX_inbox (r : Fin 8) (v : Word) (s : State) : (setX r v s).inbox = s.inbox := rfl
@[simp] theorem setX_wait (r : Fin 8) (v : Word) (s : State) : (setX r v s).wait = s.wait := rfl
@[simp] theorem setX_draws (r : Fin 8) (v : Word) (s : State) : (setX r v s).draws = s.draws := rfl
@[simp] theorem setX_epoch (r : Fin 8) (v : Word) (s : State) : (setX r v s).epoch = s.epoch := rfl

/-! ### setPlen -/

@[simp] theorem setPlen_ie (p : Fin 4) (n : Nat) (s : State) : (setPlen p n s).ie = s.ie := rfl
@[simp] theorem setPlen_done (p : Fin 4) (n : Nat) (s : State) : (setPlen p n s).done = s.done := rfl
@[simp] theorem setPlen_err (p : Fin 4) (n : Nat) (s : State) : (setPlen p n s).err = s.err := rfl
@[simp] theorem setPlen_haz (p : Fin 4) (n : Nat) (s : State) : (setPlen p n s).haz = s.haz := rfl
@[simp] theorem setPlen_errcode (p : Fin 4) (n : Nat) (s : State) : (setPlen p n s).errcode = s.errcode := rfl
@[simp] theorem setPlen_pend (p : Fin 4) (n : Nat) (s : State) : (setPlen p n s).pend = s.pend := rfl
@[simp] theorem setPlen_cmdRead (p : Fin 4) (n : Nat) (s : State) : (setPlen p n s).cmdRead = s.cmdRead := rfl
@[simp] theorem setPlen_version (p : Fin 4) (n : Nat) (s : State) : (setPlen p n s).version = s.version := rfl
@[simp] theorem setPlen_ec (p : Fin 4) (n : Nat) (s : State) : (setPlen p n s).ec = s.ec := rfl
@[simp] theorem setPlen_maskSel (p : Fin 4) (n : Nat) (s : State) : (setPlen p n s).maskSel = s.maskSel := rfl
@[simp] theorem setPlen_fill (p : Fin 4) (n : Nat) (s : State) : (setPlen p n s).fill = s.fill := rfl
@[simp] theorem setPlen_dlen (p : Fin 4) (n : Nat) (s : State) : (setPlen p n s).dlen = s.dlen := rfl
@[simp] theorem setPlen_cwlen (p : Fin 4) (n : Nat) (s : State) : (setPlen p n s).cwlen = s.cwlen := rfl
@[simp] theorem setPlen_matVer (p : Fin 4) (n : Nat) (s : State) : (setPlen p n s).matVer = s.matVer := rfl
@[simp] theorem setPlen_placed (p : Fin 4) (n : Nat) (s : State) : (setPlen p n s).placed = s.placed := rfl
@[simp] theorem setPlen_maskUsed (p : Fin 4) (n : Nat) (s : State) : (setPlen p n s).maskUsed = s.maskUsed := rfl
@[simp] theorem setPlen_maskValid (p : Fin 4) (n : Nat) (s : State) : (setPlen p n s).maskValid = s.maskValid := rfl
@[simp] theorem setPlen_fmtw (p : Fin 4) (n : Nat) (s : State) : (setPlen p n s).fmtw = s.fmtw := rfl
@[simp] theorem setPlen_verw (p : Fin 4) (n : Nat) (s : State) : (setPlen p n s).verw = s.verw := rfl
@[simp] theorem setPlen_penalty (p : Fin 4) (n : Nat) (s : State) : (setPlen p n s).penalty = s.penalty := rfl
@[simp] theorem setPlen_score (p : Fin 4) (n : Nat) (s : State) : (setPlen p n s).score = s.score := rfl
@[simp] theorem setPlen_plen (p : Fin 4) (n : Nat) (s : State) : (setPlen p n s).plen = s.plen.set p (BitVec.ofNat 9 n) := rfl
@[simp] theorem setPlen_x (p : Fin 4) (n : Nat) (s : State) : (setPlen p n s).x = s.x := rfl
@[simp] theorem setPlen_mem (p : Fin 4) (n : Nat) (s : State) : (setPlen p n s).mem = s.mem := rfl
@[simp] theorem setPlen_matrix (p : Fin 4) (n : Nat) (s : State) : (setPlen p n s).matrix = s.matrix := rfl
@[simp] theorem setPlen_rdata (p : Fin 4) (n : Nat) (s : State) : (setPlen p n s).rdata = s.rdata := rfl
@[simp] theorem setPlen_inbox (p : Fin 4) (n : Nat) (s : State) : (setPlen p n s).inbox = s.inbox := rfl
@[simp] theorem setPlen_wait (p : Fin 4) (n : Nat) (s : State) : (setPlen p n s).wait = s.wait := rfl
@[simp] theorem setPlen_draws (p : Fin 4) (n : Nat) (s : State) : (setPlen p n s).draws = s.draws := rfl
@[simp] theorem setPlen_epoch (p : Fin 4) (n : Nat) (s : State) : (setPlen p n s).epoch = s.epoch := rfl

/-! ### writeBytes -/

@[simp] theorem writeBytes_ie (a : Nat) (l : List Byte) (s : State) : (writeBytes a l s).ie = s.ie := rfl
@[simp] theorem writeBytes_done (a : Nat) (l : List Byte) (s : State) : (writeBytes a l s).done = s.done := rfl
@[simp] theorem writeBytes_err (a : Nat) (l : List Byte) (s : State) : (writeBytes a l s).err = s.err := rfl
@[simp] theorem writeBytes_haz (a : Nat) (l : List Byte) (s : State) : (writeBytes a l s).haz = s.haz := rfl
@[simp] theorem writeBytes_errcode (a : Nat) (l : List Byte) (s : State) : (writeBytes a l s).errcode = s.errcode := rfl
@[simp] theorem writeBytes_pend (a : Nat) (l : List Byte) (s : State) : (writeBytes a l s).pend = s.pend := rfl
@[simp] theorem writeBytes_cmdRead (a : Nat) (l : List Byte) (s : State) : (writeBytes a l s).cmdRead = s.cmdRead := rfl
@[simp] theorem writeBytes_version (a : Nat) (l : List Byte) (s : State) : (writeBytes a l s).version = s.version := rfl
@[simp] theorem writeBytes_ec (a : Nat) (l : List Byte) (s : State) : (writeBytes a l s).ec = s.ec := rfl
@[simp] theorem writeBytes_maskSel (a : Nat) (l : List Byte) (s : State) : (writeBytes a l s).maskSel = s.maskSel := rfl
@[simp] theorem writeBytes_fill (a : Nat) (l : List Byte) (s : State) : (writeBytes a l s).fill = s.fill := rfl
@[simp] theorem writeBytes_dlen (a : Nat) (l : List Byte) (s : State) : (writeBytes a l s).dlen = s.dlen := rfl
@[simp] theorem writeBytes_cwlen (a : Nat) (l : List Byte) (s : State) : (writeBytes a l s).cwlen = s.cwlen := rfl
@[simp] theorem writeBytes_matVer (a : Nat) (l : List Byte) (s : State) : (writeBytes a l s).matVer = s.matVer := rfl
@[simp] theorem writeBytes_placed (a : Nat) (l : List Byte) (s : State) : (writeBytes a l s).placed = s.placed := rfl
@[simp] theorem writeBytes_maskUsed (a : Nat) (l : List Byte) (s : State) : (writeBytes a l s).maskUsed = s.maskUsed := rfl
@[simp] theorem writeBytes_maskValid (a : Nat) (l : List Byte) (s : State) : (writeBytes a l s).maskValid = s.maskValid := rfl
@[simp] theorem writeBytes_fmtw (a : Nat) (l : List Byte) (s : State) : (writeBytes a l s).fmtw = s.fmtw := rfl
@[simp] theorem writeBytes_verw (a : Nat) (l : List Byte) (s : State) : (writeBytes a l s).verw = s.verw := rfl
@[simp] theorem writeBytes_penalty (a : Nat) (l : List Byte) (s : State) : (writeBytes a l s).penalty = s.penalty := rfl
@[simp] theorem writeBytes_score (a : Nat) (l : List Byte) (s : State) : (writeBytes a l s).score = s.score := rfl
@[simp] theorem writeBytes_plen (a : Nat) (l : List Byte) (s : State) : (writeBytes a l s).plen = s.plen := rfl
@[simp] theorem writeBytes_x (a : Nat) (l : List Byte) (s : State) : (writeBytes a l s).x = s.x := rfl
@[simp] theorem writeBytes_mem (a : Nat) (l : List Byte) (s : State) : (writeBytes a l s).mem = s.mem.setList a l := rfl
@[simp] theorem writeBytes_matrix (a : Nat) (l : List Byte) (s : State) : (writeBytes a l s).matrix = s.matrix := rfl
@[simp] theorem writeBytes_rdata (a : Nat) (l : List Byte) (s : State) : (writeBytes a l s).rdata = s.rdata := rfl
@[simp] theorem writeBytes_inbox (a : Nat) (l : List Byte) (s : State) : (writeBytes a l s).inbox = s.inbox := rfl
@[simp] theorem writeBytes_wait (a : Nat) (l : List Byte) (s : State) : (writeBytes a l s).wait = s.wait := rfl
@[simp] theorem writeBytes_draws (a : Nat) (l : List Byte) (s : State) : (writeBytes a l s).draws = s.draws := rfl
@[simp] theorem writeBytes_epoch (a : Nat) (l : List Byte) (s : State) : (writeBytes a l s).epoch = s.epoch := rfl

/-! ### setPoly -/

@[simp] theorem setPoly_ie (p : Fin 4) (l : List Byte) (s : State) : (setPoly p l s).ie = s.ie := rfl
@[simp] theorem setPoly_done (p : Fin 4) (l : List Byte) (s : State) : (setPoly p l s).done = s.done := rfl
@[simp] theorem setPoly_err (p : Fin 4) (l : List Byte) (s : State) : (setPoly p l s).err = s.err := rfl
@[simp] theorem setPoly_haz (p : Fin 4) (l : List Byte) (s : State) : (setPoly p l s).haz = s.haz := rfl
@[simp] theorem setPoly_errcode (p : Fin 4) (l : List Byte) (s : State) : (setPoly p l s).errcode = s.errcode := rfl
@[simp] theorem setPoly_pend (p : Fin 4) (l : List Byte) (s : State) : (setPoly p l s).pend = s.pend := rfl
@[simp] theorem setPoly_cmdRead (p : Fin 4) (l : List Byte) (s : State) : (setPoly p l s).cmdRead = s.cmdRead := rfl
@[simp] theorem setPoly_version (p : Fin 4) (l : List Byte) (s : State) : (setPoly p l s).version = s.version := rfl
@[simp] theorem setPoly_ec (p : Fin 4) (l : List Byte) (s : State) : (setPoly p l s).ec = s.ec := rfl
@[simp] theorem setPoly_maskSel (p : Fin 4) (l : List Byte) (s : State) : (setPoly p l s).maskSel = s.maskSel := rfl
@[simp] theorem setPoly_fill (p : Fin 4) (l : List Byte) (s : State) : (setPoly p l s).fill = s.fill := rfl
@[simp] theorem setPoly_dlen (p : Fin 4) (l : List Byte) (s : State) : (setPoly p l s).dlen = s.dlen := rfl
@[simp] theorem setPoly_cwlen (p : Fin 4) (l : List Byte) (s : State) : (setPoly p l s).cwlen = s.cwlen := rfl
@[simp] theorem setPoly_matVer (p : Fin 4) (l : List Byte) (s : State) : (setPoly p l s).matVer = s.matVer := rfl
@[simp] theorem setPoly_placed (p : Fin 4) (l : List Byte) (s : State) : (setPoly p l s).placed = s.placed := rfl
@[simp] theorem setPoly_maskUsed (p : Fin 4) (l : List Byte) (s : State) : (setPoly p l s).maskUsed = s.maskUsed := rfl
@[simp] theorem setPoly_maskValid (p : Fin 4) (l : List Byte) (s : State) : (setPoly p l s).maskValid = s.maskValid := rfl
@[simp] theorem setPoly_fmtw (p : Fin 4) (l : List Byte) (s : State) : (setPoly p l s).fmtw = s.fmtw := rfl
@[simp] theorem setPoly_verw (p : Fin 4) (l : List Byte) (s : State) : (setPoly p l s).verw = s.verw := rfl
@[simp] theorem setPoly_penalty (p : Fin 4) (l : List Byte) (s : State) : (setPoly p l s).penalty = s.penalty := rfl
@[simp] theorem setPoly_score (p : Fin 4) (l : List Byte) (s : State) : (setPoly p l s).score = s.score := rfl
@[simp] theorem setPoly_plen (p : Fin 4) (l : List Byte) (s : State) : (setPoly p l s).plen = s.plen.set p (BitVec.ofNat 9 l.length) := rfl
@[simp] theorem setPoly_x (p : Fin 4) (l : List Byte) (s : State) : (setPoly p l s).x = s.x := rfl
@[simp] theorem setPoly_mem (p : Fin 4) (l : List Byte) (s : State) : (setPoly p l s).mem = s.mem.setList (prAddr p 0) l := rfl
@[simp] theorem setPoly_matrix (p : Fin 4) (l : List Byte) (s : State) : (setPoly p l s).matrix = s.matrix := rfl
@[simp] theorem setPoly_rdata (p : Fin 4) (l : List Byte) (s : State) : (setPoly p l s).rdata = s.rdata := rfl
@[simp] theorem setPoly_inbox (p : Fin 4) (l : List Byte) (s : State) : (setPoly p l s).inbox = s.inbox := rfl
@[simp] theorem setPoly_wait (p : Fin 4) (l : List Byte) (s : State) : (setPoly p l s).wait = s.wait := rfl
@[simp] theorem setPoly_draws (p : Fin 4) (l : List Byte) (s : State) : (setPoly p l s).draws = s.draws := rfl
@[simp] theorem setPoly_epoch (p : Fin 4) (l : List Byte) (s : State) : (setPoly p l s).epoch = s.epoch := rfl

/-! ### complete -/

@[simp] theorem complete_ie (s : State) : (complete s).ie = s.ie := rfl
@[simp] theorem complete_done (s : State) : (complete s).done = true := rfl
@[simp] theorem complete_err (s : State) : (complete s).err = s.err := rfl
@[simp] theorem complete_haz (s : State) : (complete s).haz = s.haz := rfl
@[simp] theorem complete_errcode (s : State) : (complete s).errcode = s.errcode := rfl
@[simp] theorem complete_pend (s : State) : (complete s).pend = none := rfl
@[simp] theorem complete_cmdRead (s : State) : (complete s).cmdRead = s.cmdRead := rfl
@[simp] theorem complete_version (s : State) : (complete s).version = s.version := rfl
@[simp] theorem complete_ec (s : State) : (complete s).ec = s.ec := rfl
@[simp] theorem complete_maskSel (s : State) : (complete s).maskSel = s.maskSel := rfl
@[simp] theorem complete_fill (s : State) : (complete s).fill = s.fill := rfl
@[simp] theorem complete_dlen (s : State) : (complete s).dlen = s.dlen := rfl
@[simp] theorem complete_cwlen (s : State) : (complete s).cwlen = s.cwlen := rfl
@[simp] theorem complete_matVer (s : State) : (complete s).matVer = s.matVer := rfl
@[simp] theorem complete_placed (s : State) : (complete s).placed = s.placed := rfl
@[simp] theorem complete_maskUsed (s : State) : (complete s).maskUsed = s.maskUsed := rfl
@[simp] theorem complete_maskValid (s : State) : (complete s).maskValid = s.maskValid := rfl
@[simp] theorem complete_fmtw (s : State) : (complete s).fmtw = s.fmtw := rfl
@[simp] theorem complete_verw (s : State) : (complete s).verw = s.verw := rfl
@[simp] theorem complete_penalty (s : State) : (complete s).penalty = s.penalty := rfl
@[simp] theorem complete_score (s : State) : (complete s).score = s.score := rfl
@[simp] theorem complete_plen (s : State) : (complete s).plen = s.plen := rfl
@[simp] theorem complete_x (s : State) : (complete s).x = s.x := rfl
@[simp] theorem complete_mem (s : State) : (complete s).mem = s.mem := rfl
@[simp] theorem complete_matrix (s : State) : (complete s).matrix = s.matrix := rfl
@[simp] theorem complete_rdata (s : State) : (complete s).rdata = s.rdata := rfl
@[simp] theorem complete_inbox (s : State) : (complete s).inbox = s.inbox := rfl
@[simp] theorem complete_wait (s : State) : (complete s).wait = s.wait := rfl
@[simp] theorem complete_draws (s : State) : (complete s).draws = s.draws := rfl
@[simp] theorem complete_epoch (s : State) : (complete s).epoch = s.epoch := rfl

/-! ### takeFault -/

@[simp] theorem takeFault_ie (c : FaultCode) (s : State) : (takeFault c s).ie = s.ie := rfl
@[simp] theorem takeFault_done (c : FaultCode) (s : State) : (takeFault c s).done = true := rfl
@[simp] theorem takeFault_err (c : FaultCode) (s : State) : (takeFault c s).err = true := rfl
@[simp] theorem takeFault_haz (c : FaultCode) (s : State) : (takeFault c s).haz = s.haz := rfl
@[simp] theorem takeFault_errcode (c : FaultCode) (s : State) : (takeFault c s).errcode = c := rfl
@[simp] theorem takeFault_pend (c : FaultCode) (s : State) : (takeFault c s).pend = none := rfl
@[simp] theorem takeFault_cmdRead (c : FaultCode) (s : State) : (takeFault c s).cmdRead = s.cmdRead := rfl
@[simp] theorem takeFault_version (c : FaultCode) (s : State) : (takeFault c s).version = s.version := rfl
@[simp] theorem takeFault_ec (c : FaultCode) (s : State) : (takeFault c s).ec = s.ec := rfl
@[simp] theorem takeFault_maskSel (c : FaultCode) (s : State) : (takeFault c s).maskSel = s.maskSel := rfl
@[simp] theorem takeFault_fill (c : FaultCode) (s : State) : (takeFault c s).fill = s.fill := rfl
@[simp] theorem takeFault_dlen (c : FaultCode) (s : State) : (takeFault c s).dlen = s.dlen := rfl
@[simp] theorem takeFault_cwlen (c : FaultCode) (s : State) : (takeFault c s).cwlen = s.cwlen := rfl
@[simp] theorem takeFault_matVer (c : FaultCode) (s : State) : (takeFault c s).matVer = s.matVer := rfl
@[simp] theorem takeFault_placed (c : FaultCode) (s : State) : (takeFault c s).placed = s.placed := rfl
@[simp] theorem takeFault_maskUsed (c : FaultCode) (s : State) : (takeFault c s).maskUsed = s.maskUsed := rfl
@[simp] theorem takeFault_maskValid (c : FaultCode) (s : State) : (takeFault c s).maskValid = s.maskValid := rfl
@[simp] theorem takeFault_fmtw (c : FaultCode) (s : State) : (takeFault c s).fmtw = s.fmtw := rfl
@[simp] theorem takeFault_verw (c : FaultCode) (s : State) : (takeFault c s).verw = s.verw := rfl
@[simp] theorem takeFault_penalty (c : FaultCode) (s : State) : (takeFault c s).penalty = s.penalty := rfl
@[simp] theorem takeFault_score (c : FaultCode) (s : State) : (takeFault c s).score = s.score := rfl
@[simp] theorem takeFault_plen (c : FaultCode) (s : State) : (takeFault c s).plen = s.plen := rfl
@[simp] theorem takeFault_x (c : FaultCode) (s : State) : (takeFault c s).x = s.x := rfl
@[simp] theorem takeFault_mem (c : FaultCode) (s : State) : (takeFault c s).mem = s.mem := rfl
@[simp] theorem takeFault_matrix (c : FaultCode) (s : State) : (takeFault c s).matrix = s.matrix := rfl
@[simp] theorem takeFault_rdata (c : FaultCode) (s : State) : (takeFault c s).rdata = s.rdata := rfl
@[simp] theorem takeFault_inbox (c : FaultCode) (s : State) : (takeFault c s).inbox = s.inbox := rfl
@[simp] theorem takeFault_wait (c : FaultCode) (s : State) : (takeFault c s).wait = s.wait := rfl
@[simp] theorem takeFault_draws (c : FaultCode) (s : State) : (takeFault c s).draws = s.draws := rfl
@[simp] theorem takeFault_epoch (c : FaultCode) (s : State) : (takeFault c s).epoch = s.epoch := rfl

/-! ### accept -/

@[simp] theorem accept_ie (w : Word) (l : Nat) (s : State) : (accept w l s).ie = s.ie := rfl
@[simp] theorem accept_done (w : Word) (l : Nat) (s : State) : (accept w l s).done = false := rfl
@[simp] theorem accept_err (w : Word) (l : Nat) (s : State) : (accept w l s).err = s.err := rfl
@[simp] theorem accept_haz (w : Word) (l : Nat) (s : State) : (accept w l s).haz = s.haz := rfl
@[simp] theorem accept_errcode (w : Word) (l : Nat) (s : State) : (accept w l s).errcode = s.errcode := rfl
@[simp] theorem accept_pend (w : Word) (l : Nat) (s : State) : (accept w l s).pend = some w := rfl
@[simp] theorem accept_cmdRead (w : Word) (l : Nat) (s : State) : (accept w l s).cmdRead = w := rfl
@[simp] theorem accept_version (w : Word) (l : Nat) (s : State) : (accept w l s).version = s.version := rfl
@[simp] theorem accept_ec (w : Word) (l : Nat) (s : State) : (accept w l s).ec = s.ec := rfl
@[simp] theorem accept_maskSel (w : Word) (l : Nat) (s : State) : (accept w l s).maskSel = s.maskSel := rfl
@[simp] theorem accept_fill (w : Word) (l : Nat) (s : State) : (accept w l s).fill = s.fill := rfl
@[simp] theorem accept_dlen (w : Word) (l : Nat) (s : State) : (accept w l s).dlen = s.dlen := rfl
@[simp] theorem accept_cwlen (w : Word) (l : Nat) (s : State) : (accept w l s).cwlen = s.cwlen := rfl
@[simp] theorem accept_matVer (w : Word) (l : Nat) (s : State) : (accept w l s).matVer = s.matVer := rfl
@[simp] theorem accept_placed (w : Word) (l : Nat) (s : State) : (accept w l s).placed = s.placed := rfl
@[simp] theorem accept_maskUsed (w : Word) (l : Nat) (s : State) : (accept w l s).maskUsed = s.maskUsed := rfl
@[simp] theorem accept_maskValid (w : Word) (l : Nat) (s : State) : (accept w l s).maskValid = s.maskValid := rfl
@[simp] theorem accept_fmtw (w : Word) (l : Nat) (s : State) : (accept w l s).fmtw = s.fmtw := rfl
@[simp] theorem accept_verw (w : Word) (l : Nat) (s : State) : (accept w l s).verw = s.verw := rfl
@[simp] theorem accept_penalty (w : Word) (l : Nat) (s : State) : (accept w l s).penalty = s.penalty := rfl
@[simp] theorem accept_score (w : Word) (l : Nat) (s : State) : (accept w l s).score = s.score := rfl
@[simp] theorem accept_plen (w : Word) (l : Nat) (s : State) : (accept w l s).plen = s.plen := rfl
@[simp] theorem accept_x (w : Word) (l : Nat) (s : State) : (accept w l s).x = s.x := rfl
@[simp] theorem accept_mem (w : Word) (l : Nat) (s : State) : (accept w l s).mem = s.mem := rfl
@[simp] theorem accept_matrix (w : Word) (l : Nat) (s : State) : (accept w l s).matrix = s.matrix := rfl
@[simp] theorem accept_rdata (w : Word) (l : Nat) (s : State) : (accept w l s).rdata = s.rdata := rfl
@[simp] theorem accept_inbox (w : Word) (l : Nat) (s : State) : (accept w l s).inbox = s.inbox := rfl
@[simp] theorem accept_wait (w : Word) (l : Nat) (s : State) : (accept w l s).wait = l := rfl
@[simp] theorem accept_draws (w : Word) (l : Nat) (s : State) : (accept w l s).draws = s.draws := rfl
@[simp] theorem accept_epoch (w : Word) (l : Nat) (s : State) : (accept w l s).epoch = s.epoch := rfl

end Sys2Proof.Machine
end

