-- ==== Sys2Proof/Laws/Memory.lean ====
section
/-! SUPPORT. The byte arrays: reading after a write, and that every write keeps the canonical form. -/

namespace Sys2Proof.Machine

/-- A read after a write of the same address gives the byte written, of any other what was there. -/
theorem get?_set (m : Memory) (a b : Nat) (v : Byte) :
    (m.set a v).get? b = if a = b then some v else m.get? b := by
  induction m with
  | nil => simp [Memory.set, Memory.get?]
  | cons p m ih =>
    obtain ⟨k, c⟩ := p
    simp only [Memory.set]
    split
    · by_cases h : a = b <;> simp [Memory.get?, h]
    · split
      · rename_i e; subst e; by_cases h : a = b <;> simp [Memory.get?, h]
      · simp only [Memory.get?, ih]
        by_cases h : k = b
        · subst h; simp_all
        · simp [h]

/-- A read after a list is written from `a` on. -/
theorem get?_setList (m : Memory) (a b : Nat) (l : List Byte) :
    (m.setList a l).get? b = if a ≤ b then (l[b - a]?).or (m.get? b) else m.get? b := by
  induction l generalizing m a with
  | nil => simp [Memory.setList]
  | cons v l ih =>
    simp only [Memory.setList, ih, get?_set]
    by_cases h : a = b
    · subst h; simp
    · by_cases h' : a + 1 ≤ b
      · have e : b - a = (b - (a + 1)) + 1 := by omega
        have h2 : a ≤ b := by omega
        simp [h', h2, e, h]
      · have h2 : ¬ a ≤ b := by omega
        simp [h', h2, h]

/-- Every key of a memory after a write is an old key or the one written. -/
theorem mem_set {m : Memory} {a : Nat} {v : Byte} {p : Host.Cell} (h : p ∈ m.set a v) : p = (a, v) ∨ p ∈ m := by
  induction m with
  | nil => simpa [Memory.set] using h
  | cons q m ih =>
    obtain ⟨k, c⟩ := q
    simp only [Memory.set] at h
    split at h
    · simpa [List.mem_cons] using h
    · split at h
      · rcases List.mem_cons.mp h with h | h
        · exact .inl h
        · exact .inr (List.mem_cons_of_mem _ h)
      · rcases List.mem_cons.mp h with h | h
        · exact .inr (h ▸ List.mem_cons_self)
        · exact (ih h).imp id (List.mem_cons_of_mem _)

/-- A write of an entry keeps the canonical form. -/
theorem set_wf {m : Memory} (h : m.wf) {a : Nat} (ha : isEntry a = true) (v : Byte) : (m.set a v).wf := by
  refine ⟨?_, fun p hp => (mem_set hp).elim (fun e => e ▸ ha) (h.2 p)⟩
  have hp := h.1
  clear h ha
  induction m with
  | nil => simp [Memory.set]
  | cons q m ih =>
    obtain ⟨k, c⟩ := q
    have hq := List.pairwise_cons.mp hp
    simp only [Memory.set]
    split
    · rename_i hlt
      refine List.pairwise_cons.mpr ⟨fun p hp' => ?_, hp⟩
      rcases List.mem_cons.mp hp' with e | e
      · subst e; exact hlt
      · exact Nat.lt_trans hlt (hq.1 p e)
    · split
      · rename_i he; subst he
        exact List.pairwise_cons.mpr ⟨fun p hp' => hq.1 p hp', hq.2⟩
      · refine List.pairwise_cons.mpr ⟨fun p hp' => ?_, ih hq.2⟩
        rcases mem_set hp' with e | e
        · subst e; show k < a; omega
        · exact hq.1 p e

/-- A write of a list of entries keeps the canonical form. -/
theorem setList_wf {m : Memory} (h : m.wf) {a : Nat} {l : List Byte}
    (ha : ∀ k, k < l.length → isEntry (a + k) = true) : (m.setList a l).wf := by
  induction l generalizing m a with
  | nil => exact h
  | cons v l ih =>
    refine ih (set_wf h (by simpa using ha 0 (by simp)) v) fun k hk => ?_
    have := ha (k + 1) (by simpa using hk)
    rwa [show a + 1 + k = a + (k + 1) by omega]

/-- Writing the same byte twice is writing it once. -/
theorem set_set (m : Memory) (a : Nat) (v : Byte) : (m.set a v).set a v = m.set a v := by
  induction m with
  | nil => simp [Memory.set]
  | cons q m ih =>
    obtain ⟨k, c⟩ := q
    simp only [Memory.set]
    split
    · simp [Memory.set]
    · split
      · simp [Memory.set]
      · rename_i h1 h2
        simp only [Memory.set, h1, h2, if_false, ih]

/-- The empty memory is in canonical form. -/
theorem nil_wf : Memory.wf [] := ⟨List.Pairwise.nil, by simp⟩

theorem isEntry_iff (a : Nat) :
    isEntry a = true ↔ (0x1000 ≤ a ∧ a < 0x1400) ∨ (0x2000 ≤ a ∧ a < 0x4000) := by simp [isEntry]

/-- The entries of PR and CW by name. -/
theorem isEntry_pr (p : Fin 4) {i : Nat} (h : i < 256) : isEntry (prAddr p i) = true := by
  have := p.isLt
  rw [isEntry_iff]; unfold prAddr prBase; omega

theorem isEntry_cw {k : Nat} (h : k < 4096) : isEntry (cwBase + k) = true := by
  rw [isEntry_iff]; unfold cwBase; omega

/-! ## Reading one entry of the state -/

theorem readByte_congr {s t : State} (hm : t.mem = s.mem) (he : t.epoch = s.epoch) (a : Nat) :
    readByte a t = readByte a s := by simp [readByte, hm, he]

/-- A byte after a list is stored from `a` on. -/
theorem readByte_writeBytes (a b : Nat) (l : List Byte) (s : State) :
    readByte b (writeBytes a l s) = if a ≤ b then (l[b - a]?).getD (readByte b s) else readByte b s := by
  simp only [readByte, writeBytes_mem, writeBytes_epoch, get?_setList]
  split
  · cases l[b - a]? <;> simp
  · rfl

/-- A byte after a polynomial register is written (R132). -/
theorem readByte_setPoly (p : Fin 4) (b : Nat) (l : List Byte) (s : State) :
    readByte b (setPoly p l s) =
      if prAddr p 0 ≤ b then (l[b - prAddr p 0]?).getD (readByte b s) else readByte b s :=
  readByte_writeBytes _ _ _ _

/-- Outside the stored bytes nothing changes. -/
theorem readByte_writeBytes_outside {a b : Nat} {l : List Byte} (s : State) (h : ¬ (a ≤ b ∧ b < a + l.length)) :
    readByte b (writeBytes a l s) = readByte b s := by
  rw [readByte_writeBytes]
  split
  · rw [List.getElem?_eq_none (by omega)]; rfl
  · rfl

/-- The list just stored is read back. -/
theorem readBytes_writeBytes (a : Nat) (l : List Byte) (s : State) :
    readBytes a l.length (writeBytes a l s) = l := by
  refine List.ext_getElem (by simp [readBytes]) fun i h1 h2 => ?_
  simp [readBytes, readByte_writeBytes, h2]

end Sys2Proof.Machine
end

