-- ==== Sys2Proof/Laws/Bus.lean ====
section
/-! SUPPORT. The host's accesses: which addresses the exceptional words have, and what an access is, idle and busy. -/

namespace Sys2Proof.Machine

theorem busy_eq_false {s : State} : busy s = false ↔ s.pend = none := by
  cases h : s.pend <;> simp [busy, h]

theorem busy_eq_true {s : State} : busy s = true ↔ s.pend ≠ none := by
  cases h : s.pend <;> simp [busy, h]

/-- Only word 0 is CTRL, only word 1 STATUS, only word 2 CMD (R28). -/
theorem csrTarget_cases (a : Nat) :
    (csrTarget a = .ctrl ↔ a = 0) ∧ (csrTarget a = .status ↔ a = 1) ∧ (csrTarget a = .cmd ↔ a = 2) := by
  unfold csrTarget
  split
  case h_12 h0 h1 h2 _ _ _ _ _ _ _ _ =>
    split
    · exact ⟨iff_of_false nofun h0, iff_of_false nofun h1, iff_of_false nofun h2⟩
    · split
      · exact ⟨iff_of_false nofun h0, iff_of_false nofun h1, iff_of_false nofun h2⟩
      · split
        · exact ⟨iff_of_false nofun h0, iff_of_false nofun h1, iff_of_false nofun h2⟩
        · exact ⟨iff_of_false nofun h0, iff_of_false nofun h1, iff_of_false nofun h2⟩
  all_goals simp

theorem targetOf_cases (a : Nat) :
    (targetOf a = .ctrl ↔ a = 0) ∧ (targetOf a = .status ↔ a = 1) ∧ (targetOf a = .cmd ↔ a = 2) := by
  by_cases ha : a < 0x100
  · rw [targetOf, if_pos ha]; exact csrTarget_cases a
  · have h : ∀ t : Target, (t = .ctrl ∨ t = .status ∨ t = .cmd) → targetOf a ≠ t := by
      intro t ht e
      rw [targetOf, if_neg ha] at e
      repeat' split at e
      all_goals subst e; simp at ht
    exact ⟨iff_of_false (h _ (.inl rfl)) (by omega), iff_of_false (h _ (.inr (.inl rfl))) (by omega),
      iff_of_false (h _ (.inr (.inr rfl))) (by omega)⟩

theorem targetOf_eq_ctrl {a : Nat} : targetOf a = .ctrl ↔ a = 0 := (targetOf_cases a).1

theorem targetOf_eq_status {a : Nat} : targetOf a = .status ↔ a = 1 := (targetOf_cases a).2.1

theorem targetOf_eq_cmd {a : Nat} : targetOf a = .cmd ↔ a = 2 := (targetOf_cases a).2.2

/-- An idle write is the write of the word it names. -/
theorem hostWrite_idle {s : State} (h : s.pend = none) (a : Addr) (w : Word) :
    hostWrite a w s = idleWrite (targetOf a.toNat) w s := by
  simp [hostWrite, busy, h]

/-- A busy write of a word other than CTRL and STATUS is dropped. -/
theorem hostWrite_dropped {s : State} (h : s.pend ≠ none) {a : Addr} (h0 : a ≠ 0) (h1 : a ≠ 1) (w : Word) :
    hostWrite a w s = { s with haz := true } := by
  have hc : targetOf a.toNat ≠ .ctrl := fun e => h0 (BitVec.eq_of_toNat_eq (targetOf_eq_ctrl.1 e))
  have hs : targetOf a.toNat ≠ .status := fun e => h1 (BitVec.eq_of_toNat_eq (targetOf_eq_status.1 e))
  simp only [hostWrite, busy_eq_true.2 h, hc, hs, ne_eq, not_false_eq_true, decide_true, Bool.and_self, if_true]

/-- A write of STATUS takes effect, idle or busy. -/
theorem hostWrite_status (s : State) (w : Word) : hostWrite 1 w s = statusWrite w s := by
  have h : targetOf (1 : Addr).toNat = .status := targetOf_eq_status.2 rfl
  simp only [hostWrite, h]
  simp [idleWrite]

/-- A write of CTRL takes effect, idle or busy. -/
theorem hostWrite_ctrl (s : State) (w : Word) : hostWrite 0 w s = { s with ie := w.getLsbD 0 } := by
  have h : targetOf (0 : Addr).toNat = .ctrl := targetOf_eq_ctrl.2 rfl
  simp only [hostWrite, h]
  simp [idleWrite]

/-- A read while idle, or of a stable word, returns the defined value. -/
theorem hostRead_defined {a : Addr} {s : State} (h : s.pend = none ∨ (targetOf a.toNat).stable = true) :
    hostRead a s = { s with rdata := wordAt (targetOf a.toNat) s } := by
  rcases h with h | h <;> simp [hostRead, busy, h]

/-- A read changes no word, no operand and no pending command. -/
theorem hostRead_cases (a : Addr) (s : State) : ∃ v d, hostRead a s = { s with rdata := v, draws := d } := by
  simp only [hostRead]; split
  · exact ⟨_, _, rfl⟩
  · exact ⟨_, s.draws, rfl⟩

end Sys2Proof.Machine
end

