-- ==== Sys2Proof/Laws/Exec.lean ====
section
/-! SUPPORT. What an execution can do, said once: it takes a fault, or it retires a state that differs from the one
before only in what the command may write. -/

namespace Sys2Proof.Machine

/-- The retired state `u`, before its completion, against the state `s` before the command. -/
structure Writes (i : Instr) (s u : State) : Prop where
  ie : u.ie = s.ie
  haz : u.haz = s.haz
  err : u.err = s.err
  errcode : u.errcode = s.errcode
  cmdRead : u.cmdRead = s.cmdRead
  version : u.version = s.version
  ec : u.ec = s.ec
  maskSel : u.maskSel = s.maskSel
  fill : u.fill = s.fill
  dlen : u.dlen = s.dlen
  rdata : u.rdata = s.rdata
  inbox : u.inbox = s.inbox
  wait : u.wait = s.wait
  draws : u.draws = s.draws
  epoch : u.epoch = s.epoch
  cwlen : i ≠ .rsenc → u.cwlen = s.cwlen
  x : ∀ r, destX i ≠ some r → u.x.get r = s.x.get r
  plen : ∀ p, destP i ≠ some p → u.plen.get p = s.plen.get p
  mem : destP i = none → i ≠ .rsenc → u.mem = s.mem
  poly : ∀ p, destP i = some p → ∃ l, u = setPoly p l s
  described : writesMatrix i = false → u.matrix = s.matrix ∧ u.matVer = s.matVer ∧ u.placed = s.placed ∧
    u.maskUsed = s.maskUsed ∧ u.maskValid = s.maskValid ∧ u.fmtw = s.fmtw ∧ u.verw = s.verw
  scores : i ≠ .mbuild → u.penalty = s.penalty ∧ u.score = s.score

theorem get_set_ne {α : Type} {n : Nat} (v : Vector α n) (i j : Fin n) (a : α) (h : i ≠ j) :
    (v.set i a).get j = v.get j := by
  have : i.val ≠ j.val := fun e => h (Fin.ext e)
  simp [Vector.get_eq_getElem, this]

theorem get_set_self {α : Type} {n : Nat} (v : Vector α n) (i : Fin n) (a : α) : (v.set i a).get i = a := by
  simp [Vector.get_eq_getElem]

theorem writes_setX {i : Instr} {r : Fin 8} (v : Word) (s : State) (h : destX i = some r) (hp : destP i = none) :
    Writes i s (setX r v s) := by
  constructor <;> try rfl
  · intro _; rfl
  · intro r' hr; exact get_set_ne _ _ _ _ fun e => hr (e ▸ h)
  · intro p _; rfl
  · intro _ _; rfl
  · intro p hp'; rw [hp] at hp'; cases hp'
  · intro _; exact ⟨rfl, rfl, rfl, rfl, rfl, rfl, rfl⟩
  · intro _; exact ⟨rfl, rfl⟩

theorem writes_setPoly {i : Instr} {p : Fin 4} (l : List Byte) (s : State) (h : destP i = some p) :
    Writes i s (setPoly p l s) := by
  constructor <;> try rfl
  · intro _; rfl
  · intro _ _; rfl
  · intro p' hp; exact get_set_ne _ _ _ _ fun e => hp (e ▸ h)
  · intro hn; rw [h] at hn; cases hn
  · intro p' hp; rw [h] at hp; cases hp; exact ⟨l, rfl⟩
  · intro _; exact ⟨rfl, rfl, rfl, rfl, rfl, rfl, rfl⟩
  · intro _; exact ⟨rfl, rfl⟩

theorem writes_self {i : Instr} (s : State) (hp : destP i = none) : Writes i s s := by
  constructor <;> try rfl
  · intro _; rfl
  · intro _ _; rfl
  · intro _ _; rfl
  · intro _ _; rfl
  · intro p h; rw [hp] at h; cases h
  · intro _; exact ⟨rfl, rfl, rfl, rfl, rfl, rfl, rfl⟩
  · intro _; exact ⟨rfl, rfl⟩

theorem writes_stream (l : List Byte) (n : BitVec 13) (s : State) :
    Writes .rsenc s { writeBytes cwBase l s with cwlen := n } := by
  constructor <;> try rfl
  · intro h; exact absurd rfl h
  · intro _ _; rfl
  · intro _ _; rfl
  · intro _ h; exact absurd rfl h
  · intro p h; cases h
  · intro _; exact ⟨rfl, rfl, rfl, rfl, rfl, rfl, rfl⟩
  · intro _; exact ⟨rfl, rfl⟩

theorem writes_matrix {i : Instr} (s : State) (m : Matrix) (mv : BitVec 6) (pl : Bool) (mu : BitVec 3) (va : Bool)
    (fw : BitVec 15) (vw : BitVec 18) (pn : Word) (sc : Vector Word 8) (hm : writesMatrix i = true)
    (hp : destP i = none) (hb : i ≠ .mbuild → pn = s.penalty ∧ sc = s.score) :
    Writes i s { s with matrix := m, matVer := mv, placed := pl, maskUsed := mu, maskValid := va, fmtw := fw,
                        verw := vw, penalty := pn, score := sc } := by
  constructor <;> try rfl
  · intro _; rfl
  · intro _ _; rfl
  · intro _ _; rfl
  · intro _ _; rfl
  · intro p h; rw [hp] at h; cases h
  · intro h; rw [hm] at h; cases h
  · exact hb

/-- A meaning's outcome: a fault taken, or a retired state. -/
def Ends (i : Instr) (s : State) (o : Host.Outcome State Fault Refusal) : Prop :=
  (∃ code, code ≠ FaultCode.none ∧ o = raise code s) ∨ ∃ u, o = retire u ∧ Writes i s u

theorem ends_raise {i : Instr} {s : State} {code : FaultCode} (h : code ≠ .none) : Ends i s (raise code s) :=
  .inl ⟨code, h, rfl⟩

theorem ends_retire {i : Instr} {s u : State} (h : Writes i s u) : Ends i s (retire u) := .inr ⟨u, rfl, h⟩

/-- Every command ends so. -/
theorem exec_ends (i : Instr) (s : State) : Ends i s (exec i s) := by
  cases i with
  | nop => exact ends_retire (writes_self s rfl)
  | gexp rd ra => exact ends_retire (writes_setX _ s rfl rfl)
  | glog rd ra =>
    simp only [exec, execGlog]
    split
    · exact ends_raise (by simp)
    · split
      · exact ends_raise (by simp)
      · exact ends_retire (writes_setX _ s rfl rfl)
  | gfmul rd ra rb =>
    simp only [exec, execGfmul]
    split
    · exact ends_raise (by simp)
    · exact ends_retire (writes_setX _ s rfl rfl)
  | pnorm pd pa shift =>
    simp only [exec, execPnorm]
    split
    · exact ends_raise (by simp)
    · split
      · exact ends_raise (by simp)
      · split
        · exact ends_raise (by simp)
        · exact ends_retire (writes_setPoly _ s rfl)
  | pmul pd pa pb =>
    simp only [exec, execPmul]
    split
    · exact ends_raise (by simp)
    · split
      · exact ends_raise (by simp)
      · split
        · exact ends_raise (by simp)
        · split
          · exact ends_raise (by simp)
          · exact ends_retire (writes_setPoly _ s rfl)
  | pmod pd pa pb =>
    simp only [exec, execPmod]
    split
    · exact ends_raise (by simp)
    · split
      · exact ends_raise (by simp)
      · split
        · exact ends_raise (by simp)
        · exact ends_retire (writes_setPoly _ s rfl)
  | rsgen pd n => exact ends_retire (writes_setPoly _ s rfl)
  | rsenc =>
    simp only [exec, execRsenc]
    split
    · exact ends_raise (by simp)
    · split
      · exact ends_raise (by simp)
      · split
        · exact ends_raise (by simp)
        · exact ends_retire (writes_stream _ _ s)
  | bchfmt rd ra =>
    simp only [exec, execBchfmt]
    split
    · exact ends_raise (by simp)
    · exact ends_retire (writes_setX _ s rfl rfl)
  | bchver rd ra =>
    simp only [exec, execBchver]
    split
    · exact ends_raise (by simp)
    · exact ends_retire (writes_setX _ s rfl rfl)
  | minit =>
    simp only [exec, execMinit]
    split
    · exact ends_raise (by simp)
    · exact ends_retire (writes_matrix s _ _ _ s.maskUsed _ s.fmtw s.verw _ _ rfl rfl fun _ => ⟨rfl, rfl⟩)
  | mplace =>
    simp only [exec, execMplace]
    split
    · exact ends_raise (by simp)
    · split
      · exact ends_raise (by simp)
      · split
        · exact ends_raise (by simp)
        · exact ends_retire (writes_matrix s _ s.matVer _ _ _ _ _ _ _ rfl rfl fun _ => ⟨rfl, rfl⟩)
  | mscore rd =>
    simp only [exec, execMscore]
    split
    · exact ends_raise (by simp)
    · exact ends_retire (writes_setX _ s rfl rfl)
  | mbuild =>
    simp only [exec, execMbuild]
    split
    · exact ends_raise (by simp)
    · split
      · exact ends_raise (by simp)
      · split
        · exact ends_retire (writes_matrix s _ _ _ _ _ _ _ _ _ rfl rfl fun h => absurd rfl h)
        · exact ends_retire (writes_matrix s _ _ _ _ _ _ _ _ s.score rfl rfl fun h => absurd rfl h)
  | mpred rd ra rb m =>
    simp only [exec, execMpred]
    split
    · exact ends_raise (by simp)
    · exact ends_retire (writes_setX _ s rfl rfl)

/-- The same about a next state: it is the fault's, or the completion of a retired state. -/
theorem exec_next {i : Instr} {s t : State} (h : exec i s = .next t) :
    (∃ code, code ≠ FaultCode.none ∧ t = takeFault code s) ∨ ∃ u, t = complete u ∧ Writes i s u := by
  rcases exec_ends i s with ⟨code, hc, e⟩ | ⟨u, e, w⟩ <;> rw [e] at h <;> cases h
  · exact .inl ⟨code, hc, rfl⟩
  · exact .inr ⟨u, rfl, w⟩

end Sys2Proof.Machine
end

