-- ==== Sys2Proof/Laws/Matrix.lean ====
section
/-! SUPPORT. The matrix: what each operation leaves in each cell, and that placements keep the shape. -/

namespace Sys2Proof.Machine

/-! ## Cells -/

theorem getD_putAt {α : Type} (d : α) (l : List α) (i j : Nat) (x : α) :
    (putAt d l i x).getD j d = if i = j then x else l.getD j d := by
  induction l generalizing i j with
  | nil =>
    induction i generalizing j with
    | zero => cases j <;> simp [putAt]
    | succ i ih => cases j with
      | zero => simp [putAt]
      | succ j => simpa [putAt] using ih j
  | cons y l ih =>
    cases i with
    | zero => cases j <;> simp [putAt]
    | succ i => cases j with
      | zero => simp [putAt]
      | succ j => simpa [putAt] using ih i j

/-- `M[r][c] <- x` writes one cell. -/
theorem cell_put (m : Matrix) (r c r' c' : Nat) (x : MCell) :
    (m.put r c x).cell r' c' = if r = r' ∧ c = c' then x else m.cell r' c' := by
  simp only [Matrix.put, Matrix.cell, getD_putAt]
  by_cases h : r = r'
  · subst h; simp only [if_true, true_and]; exact getD_putAt _ _ _ _ _
  · simp only [h, if_false, false_and]

/-- A shade write keeps every `func` flag and every other shade. -/
theorem cell_setShade (m : Matrix) (r c r' c' : Nat) (h : Shade) :
    (m.setShade r c h).cell r' c' =
      if r = r' ∧ c = c' then { m.cell r' c' with shade := h } else m.cell r' c' := by
  rw [Matrix.setShade, cell_put]
  split
  · rename_i e; rw [e.1, e.2]
  · rfl

@[simp] theorem cell_nil (r c : Nat) : Matrix.cell [] r c = MCell.blank := by simp [Matrix.cell]

theorem cell_tabulate (n : Nat) (f : Nat → Nat → MCell) (r c : Nat) :
    (tabulate n f).cell r c = if r < n ∧ c < n then f r c else MCell.blank := by
  simp only [tabulate, Matrix.cell, List.getD_eq_getElem?_getD, List.getElem?_map]
  by_cases hr : r < n
  · rw [List.getElem?_range hr]
    by_cases hc : c < n
    · simp [hr, hc]
    · simp [hc]
  · simp [hr]

/-- The function patterns, cell by cell (R200). -/
theorem cell_buildfunc (v r c : Nat) :
    (buildfunc v).cell r c = if r < sideOf v ∧ c < sideOf v then funcCell v r c else MCell.blank :=
  cell_tabulate _ _ _ _

theorem getD_take_append_drop {α : Type} (d : α) (l : List α) (n i : Nat) (f : α → α) (hf : f d = d) :
    ((l.take n).map f ++ l.drop n).getD i d = if i < n then f (l.getD i d) else l.getD i d := by
  simp only [List.getD_eq_getElem?_getD, List.getElem?_append, List.length_map, List.length_take, List.getElem?_map,
    List.getElem?_take, List.getElem?_drop]
  by_cases h : i < n
  · by_cases h' : i < l.length
    · simp [h, h']
    · have h2 : ¬ i < min n l.length := by omega
      have h3 : l[n + (i - min n l.length)]? = none := List.getElem?_eq_none (by omega)
      have h4 : l[i]? = none := List.getElem?_eq_none (by omega)
      simp [h, h2, h3, h4, hf]
  · have h2 : ¬ i < min n l.length := by omega
    simp only [h, h2, if_false]
    by_cases h' : n ≤ l.length
    · rw [show n + (i - min n l.length) = i by omega]
    · rw [List.getElem?_eq_none (by omega), List.getElem?_eq_none (by omega)]

/-- The restore step: the data cells inside N become UNSET, every other cell is kept (R210). -/
theorem cell_restore (n : Nat) (m : Matrix) (r c : Nat) :
    (restore n m).cell r c =
      if r < n ∧ c < n ∧ (m.cell r c).func = false then { m.cell r c with shade := .unset } else m.cell r c := by
  have hrow := getD_take_append_drop ([] : List MCell) m n r
    (fun row => (row.take n).map (fun x => if x.func then x else { x with shade := .unset }) ++ row.drop n) (by simp)
  simp only [restore, Matrix.cell] at hrow ⊢
  rw [hrow]
  by_cases hr : r < n
  · simp only [hr, if_true, true_and]
    rw [getD_take_append_drop MCell.blank _ n c _ (by simp [MCell.blank])]
    by_cases hc : c < n
    · simp only [hc, if_true, true_and]
      cases ((m.getD r []).getD c MCell.blank).func <;> simp
    · simp [hc]
  · simp [hr]

/-! ## Shape -/

/-- The matrix has `n` rows of `n` cells. -/
def Square (n : Nat) (m : Matrix) : Prop := m.length = n ∧ ∀ row ∈ m, row.length = n

theorem length_putAt {α : Type} (d : α) {l : List α} {i : Nat} (x : α) (h : i < l.length) :
    (putAt d l i x).length = l.length := by
  induction l generalizing i with
  | nil => simp at h
  | cons y l ih => cases i with
    | zero => simp [putAt]
    | succ i => simpa [putAt] using ih (by simpa using h)

theorem mem_putAt {α : Type} {d : α} {l : List α} {i : Nat} {x y : α} (h : i < l.length) (hy : y ∈ putAt d l i x) :
    y = x ∨ y ∈ l := by
  induction l generalizing i with
  | nil => simp at h
  | cons z l ih => cases i with
    | zero => simp only [putAt, List.mem_cons] at hy ⊢; tauto
    | succ i =>
      simp only [putAt, List.mem_cons] at hy ⊢
      rcases hy with hy | hy
      · tauto
      · rcases ih (by simpa using h) hy with e | e <;> tauto

theorem square_put {n : Nat} {m : Matrix} (hm : Square n m) {r c : Nat} (hr : r < n) (hc : c < n) (x : MCell) :
    Square n (m.put r c x) := by
  have hr' : r < m.length := hm.1 ▸ hr
  have hrow : (m.getD r []).length = n := by
    rw [List.getD_eq_getElem _ _ hr']; exact hm.2 _ (List.getElem_mem hr')
  refine ⟨by rw [Matrix.put, length_putAt _ _ hr', hm.1], fun row h => ?_⟩
  rcases mem_putAt hr' h with e | e
  · rw [e, length_putAt _ _ (hrow ▸ hc), hrow]
  · exact hm.2 _ e

theorem square_setShade {n : Nat} {m : Matrix} (hm : Square n m) {r c : Nat} (hr : r < n) (hc : c < n) (h : Shade) :
    Square n (m.setShade r c h) := square_put hm hr hc _

theorem square_tabulate (n : Nat) (f : Nat → Nat → MCell) : Square n (tabulate n f) := by
  refine ⟨by simp [tabulate], fun row h => ?_⟩
  obtain ⟨r, -, rfl⟩ := List.mem_map.mp h
  simp

theorem square_restore {n : Nat} {m : Matrix} (hm : Square n m) : Square n (restore n m) := by
  have ht : m.take n = m := List.take_of_length_le (by rw [hm.1])
  have hd : m.drop n = [] := List.drop_eq_nil_of_le (by rw [hm.1])
  refine ⟨by simp [restore, ht, hd, hm.1], fun row h => ?_⟩
  simp only [restore, ht, hd, List.append_nil, List.mem_map] at h
  obtain ⟨row', h', rfl⟩ := h
  have hl := hm.2 row' h'
  simp [hl]

/-- Two square matrices with the same cells are equal. -/
theorem square_ext {n : Nat} {m m' : Matrix} (hm : Square n m) (hm' : Square n m')
    (h : ∀ r c, r < n → c < n → m.cell r c = m'.cell r c) : m = m' := by
  refine List.ext_getElem (by rw [hm.1, hm'.1]) fun r h1 h2 => ?_
  have l1 := hm.2 _ (List.getElem_mem h1)
  have l2 := hm'.2 _ (List.getElem_mem h2)
  refine List.ext_getElem (by rw [l1, l2]) fun c h3 h4 => ?_
  have := h r c (hm.1 ▸ h1) (l1 ▸ h3)
  simpa [Matrix.cell, h1, h2, h3, h4] using this

/-! ## Writing the words -/

/-- A list of shade writes at given cells: a cell not among them is kept. -/
theorem cell_foldl_setShade_of_not_mem (h : Nat × Nat → Shade) (ps : List (Nat × Nat)) (m : Matrix) {r c : Nat}
    (hn : (r, c) ∉ ps) : (ps.foldl (fun m p => m.setShade p.1 p.2 (h p)) m).cell r c = m.cell r c := by
  induction ps generalizing m with
  | nil => rfl
  | cons p ps ih =>
    rw [List.mem_cons, not_or] at hn
    rw [List.foldl_cons, ih _ hn.2, cell_setShade, if_neg]
    rintro ⟨rfl, rfl⟩; exact hn.1 rfl

/-- A list of shade writes at given cells keeps every `func` flag. -/
theorem func_foldl_setShade (h : Nat × Nat → Shade) (ps : List (Nat × Nat)) (m : Matrix) (r c : Nat) :
    ((ps.foldl (fun m p => m.setShade p.1 p.2 (h p)) m).cell r c).func = (m.cell r c).func := by
  induction ps generalizing m with
  | nil => rfl
  | cons p ps ih => rw [List.foldl_cons, ih, cell_setShade]; split <;> rfl

/-! ## The placement walk -/

/-- Inside N, where the placement walk visits. -/
theorem square_placeBits {n : Nat} (mask : Nat) {ps : List (Nat × Nat)} (hps : ∀ p ∈ ps, p.1 < n ∧ p.2 < n)
    (bits : List Bool) {m : Matrix} (hm : Square n m) : Square n (placeBits mask ps bits m) := by
  induction ps generalizing bits m with
  | nil => exact hm
  | cons p ps ih =>
    have hp := hps p List.mem_cons_self
    have hrest := fun q hq => hps q (List.mem_cons_of_mem _ hq)
    simp only [placeBits]
    split
    · exact ih hrest _ (square_setShade hm hp.1 hp.2 _)
    · exact ih hrest _ hm

/-- The walk keeps every `func` flag. -/
theorem func_placeBits (mask : Nat) (ps : List (Nat × Nat)) (bits : List Bool) (m : Matrix) (r c : Nat) :
    ((placeBits mask ps bits m).cell r c).func = (m.cell r c).func := by
  induction ps generalizing bits m with
  | nil => rfl
  | cons p ps ih =>
    simp only [placeBits]
    split
    · rw [ih, cell_setShade]; split <;> rfl
    · exact ih _ _

/-- The walk keeps an assigned cell (R217: "Cells already assigned are preserved"). -/
theorem placeBits_assigned (mask : Nat) (ps : List (Nat × Nat)) (bits : List Bool) (m : Matrix) (r c : Nat)
    (h : (m.cell r c).shade ≠ .unset) : (placeBits mask ps bits m).cell r c = m.cell r c := by
  induction ps generalizing bits m with
  | nil => rfl
  | cons p ps ih =>
    simp only [placeBits]
    split
    · rename_i hu
      have hne : ¬ (p.1 = r ∧ p.2 = c) := by rintro ⟨rfl, rfl⟩; exact h hu
      rw [ih _ _ (by rw [cell_setShade, if_neg hne]; exact h), cell_setShade, if_neg hne]
    · exact ih _ _ h

/-- The walk keeps a cell it does not visit. -/
theorem placeBits_unvisited (mask : Nat) (ps : List (Nat × Nat)) (bits : List Bool) (m : Matrix) (r c : Nat)
    (h : (r, c) ∉ ps) : (placeBits mask ps bits m).cell r c = m.cell r c := by
  induction ps generalizing bits m with
  | nil => rfl
  | cons p ps ih =>
    rw [List.mem_cons, not_or] at h
    simp only [placeBits]
    split
    · rw [ih _ _ h.2, cell_setShade, if_neg]; rintro ⟨rfl, rfl⟩; exact h.1 rfl
    · exact ih _ _ h.2

theorem shadeOf_ne_unset (b : Bool) : shadeOf b ≠ .unset := by cases b <;> simp [shadeOf]

/-- The walk assigns every cell it visits. -/
theorem placeBits_visited (mask : Nat) (ps : List (Nat × Nat)) (bits : List Bool) (m : Matrix) (r c : Nat)
    (h : (r, c) ∈ ps) : ((placeBits mask ps bits m).cell r c).shade ≠ .unset := by
  induction ps generalizing bits m with
  | nil => cases h
  | cons p ps ih =>
    by_cases hu : (m.cell r c).shade = .unset
    · simp only [placeBits]
      rcases List.mem_cons.mp h with e | e
      · subst e
        rw [if_pos hu, placeBits_assigned]
        · rw [cell_setShade, if_pos ⟨rfl, rfl⟩]; exact shadeOf_ne_unset _
        · rw [cell_setShade, if_pos ⟨rfl, rfl⟩]; exact shadeOf_ne_unset _
      · split <;> exact ih _ _ e
    · rw [placeBits_assigned _ _ _ _ _ _ hu]; exact hu

end Sys2Proof.Machine
end

