-- ==== Sys2Proof/Laws/MatrixOk.lean ====
section
/-! SUPPORT. The function patterns of any version meet `MatrixOk`. -/

namespace Sys2Proof.Machine

/-- A layer's answer is nothing, LIGHT or DARK. -/
def Drawn (o : Option Shade) : Prop := o ≠ some .unset

theorem drawn_shadeOf (b : Bool) : Drawn (some (shadeOf b)) := fun h => shadeOf_ne_unset b (Option.some.inj h)

theorem drawn_none : Drawn none := nofun

theorem drawn_overlay {a b : Option Shade} (ha : Drawn a) (hb : Drawn b) : Drawn (overlay a b) := by
  cases b with
  | none => exact ha
  | some h => exact hb

theorem drawn_foldl {α : Type} (f : α → Option Shade) (hf : ∀ x, Drawn (f x)) (l : List α) {a : Option Shade}
    (ha : Drawn a) : Drawn (l.foldl (fun a x => overlay a (f x)) a) := by
  induction l generalizing a with
  | nil => exact ha
  | cons x l ih => exact ih (drawn_overlay ha (hf x))

theorem drawn_finderAt (o : Nat × Nat) (r c : Nat) : Drawn (finderAt o r c) := by
  simp only [finderAt]; split
  · exact drawn_shadeOf _
  · exact drawn_none

theorem drawn_timingLayer (n r c : Nat) : Drawn (timingLayer n r c) := by
  simp only [timingLayer]; split
  · exact drawn_shadeOf _
  · split
    · exact drawn_shadeOf _
    · exact drawn_none

theorem drawn_alignAt (ar ac r c : Nat) : Drawn (alignAt ar ac r c) := by
  simp only [alignAt]; split
  · exact drawn_shadeOf _
  · exact drawn_none

theorem drawn_funcShade (v r c : Nat) : Drawn (funcShade v r c) := by
  have hf : Drawn (finderLayer (sideOf v) r c) := drawn_foldl _ (fun o => drawn_finderAt o r c) _ drawn_none
  have ha : Drawn (alignLayer v r c) :=
    drawn_foldl (fun p : Nat × Nat => alignAt p.1 p.2 r c) (fun p => drawn_alignAt p.1 p.2 r c) _ drawn_none
  have ht : Drawn (if finderLayer (sideOf v) r c = none then timingLayer (sideOf v) r c
      else finderLayer (sideOf v) r c) := by
    split
    · exact drawn_timingLayer _ _ _
    · exact hf
  simp only [funcShade]
  split
  · exact nofun
  · split
    · exact nofun
    · split
      · exact nofun
      · exact drawn_overlay ht ha

/-- A function cell is LIGHT or DARK, any other cell UNSET (R200). -/
theorem funcCell_shade (v r c : Nat) : (funcCell v r c).shade = .unset ↔ (funcCell v r c).func = false := by
  have h := drawn_funcShade v r c
  simp only [funcCell]
  split
  · rename_i s e
    rw [e] at h
    simpa using fun hs : s = .unset => h (hs ▸ rfl)
  · simp [MCell.blank]

theorem square_buildfunc (v : Nat) : Square (sideOf v) (buildfunc v) := square_tabulate _ _

/-- The function patterns are a good unplaced matrix. -/
theorem matrixOk_buildfunc (v : Nat) (h : v ≠ 0) : MatrixOk v false (buildfunc v) := by
  refine ⟨fun e => absurd e h, fun _ => ⟨(square_buildfunc v).1, (square_buildfunc v).2, fun r hr c hc => ?_⟩⟩
  rw [cell_buildfunc, if_pos ⟨hr, hc⟩]
  refine ⟨rfl, fun hf hs => ?_, fun _ _ => rfl, fun hf => iff_of_true ((funcCell_shade v r c).2 hf) rfl⟩
  rw [(funcCell_shade v r c).1 hs] at hf
  exact Bool.noConfusion hf

end Sys2Proof.Machine
end

