-- ==== Sys2Proof/Laws/PerInstr.lean ====
section
/-! SUPPORT. The family EncodedOpcode: the word of a well-formed command holds the command's opcode in bits 31:26, and
the operands below it (spec/30_encoding.md R90 to R96). One lemma per constructor. -/

namespace Sys2Proof.Laws.EncodedOpcode

/-- The opcode column of R96. -/
def opcodeNumber : Instr → Nat
  | .nop => 0x00
  | .gexp .. => 0x01
  | .glog .. => 0x02
  | .gfmul .. => 0x03
  | .pnorm .. => 0x08
  | .pmul .. => 0x09
  | .pmod .. => 0x0A
  | .rsgen .. => 0x0B
  | .rsenc => 0x10
  | .bchfmt .. => 0x18
  | .bchver .. => 0x19
  | .minit => 0x20
  | .mplace => 0x21
  | .mscore .. => 0x22
  | .mbuild => 0x23
  | .mpred .. => 0x24

/-- Bits 31:26 of the word of a well-formed command are its opcode. -/
def Statement (i : Instr) : Prop := i.WellFormed → opcodeOf (encode i) = opcodeNumber i

theorem opcode_of_sum {op low : Nat} (h : op < 64) (hl : low < 2 ^ 26) :
    opcodeOf (BitVec.ofNat 32 (op * 2 ^ 26 + low)) = op := by
  simp only [opcodeOf, field, BitVec.toNat_ofNat]; omega

theorem opcodeS {op : Nat} (h : op < 64) : opcodeOf (encodeS op) = op := by
  simpa [encodeS] using opcode_of_sum (low := 0) h (by norm_num)

theorem opcodeR {op : Nat} (h : op < 64) (rd ra rb : Fin 8) : opcodeOf (encodeR op rd ra rb) = op := by
  have := rd.isLt; have := ra.isLt; have := rb.isLt
  rw [encodeR, Nat.add_assoc, Nat.add_assoc]
  exact opcode_of_sum h (by omega)

theorem opcodeI {op : Nat} (h : op < 64) (rd ra rb : Fin 8) {m : Nat} (hm : m < 8) :
    opcodeOf (encodeI op rd ra rb m) = op := by
  have := rd.isLt; have := ra.isLt; have := rb.isLt
  rw [encodeI, Nat.add_assoc, Nat.add_assoc, Nat.add_assoc]
  exact opcode_of_sum h (by omega)

theorem opcodeP {op : Nat} (h : op < 64) (pd pa pb : Fin 4) {imm : Nat} (hi : imm < 256) :
    opcodeOf (encodeP op pd pa pb imm) = op := by
  have := pd.isLt; have := pa.isLt; have := pb.isLt
  rw [encodeP, Nat.add_assoc, Nat.add_assoc, Nat.add_assoc]
  exact opcode_of_sum h (by omega)

theorem nop : Statement .nop := fun _ => opcodeS (by norm_num)
theorem gexp (rd ra : Fin 8) : Statement (.gexp rd ra) := fun _ => opcodeR (by norm_num) rd ra 0
theorem glog (rd ra : Fin 8) : Statement (.glog rd ra) := fun _ => opcodeR (by norm_num) rd ra 0
theorem gfmul (rd ra rb : Fin 8) : Statement (.gfmul rd ra rb) := fun _ => opcodeR (by norm_num) rd ra rb
theorem pnorm (pd pa : Fin 4) (shift : Nat) : Statement (.pnorm pd pa shift) := fun h =>
  opcodeP (by norm_num) pd pa 0 (by simpa [Instr.WellFormed, Instr.wellFormed] using h)
theorem pmul (pd pa pb : Fin 4) : Statement (.pmul pd pa pb) := fun _ => opcodeP (by norm_num) pd pa pb (by norm_num)
theorem pmod (pd pa pb : Fin 4) : Statement (.pmod pd pa pb) := fun _ => opcodeP (by norm_num) pd pa pb (by norm_num)
theorem rsgen (pd : Fin 4) (n : Nat) : Statement (.rsgen pd n) := fun h =>
  opcodeP (by norm_num) pd 0 0 (by simpa [Instr.WellFormed, Instr.wellFormed] using h)
theorem rsenc : Statement .rsenc := fun _ => opcodeS (by norm_num)
theorem bchfmt (rd ra : Fin 8) : Statement (.bchfmt rd ra) := fun _ => opcodeR (by norm_num) rd ra 0
theorem bchver (rd ra : Fin 8) : Statement (.bchver rd ra) := fun _ => opcodeR (by norm_num) rd ra 0
theorem minit : Statement .minit := fun _ => opcodeS (by norm_num)
theorem mplace : Statement .mplace := fun _ => opcodeS (by norm_num)
theorem mscore (rd : Fin 8) : Statement (.mscore rd) := fun _ => opcodeR (by norm_num) rd 0 0
theorem mbuild : Statement .mbuild := fun _ => opcodeS (by norm_num)
theorem mpred (rd ra rb : Fin 8) (m : Nat) : Statement (.mpred rd ra rb m) := fun h =>
  opcodeI (by norm_num) rd ra rb (by simpa [Instr.WellFormed, Instr.wellFormed] using h)

end Sys2Proof.Laws.EncodedOpcode
end

