-- ==== Sys2Proof/Laws/Poly.lean ====
section
/-! SUPPORT. Lengths and shapes of the polynomial operations and of the interleaver's pieces. -/

namespace Sys2Proof.Machine

theorem length_readBytes (a n : Nat) (s : State) : (readBytes a n s).length = n := by simp [readBytes]

theorem length_polyOf (p : Fin 4) (s : State) : (polyOf p s).length = plenOf p s := length_readBytes _ _ s

theorem plenOf_setPoly (p : Fin 4) (l : List Byte) (s : State) (h : l.length < 512) :
    plenOf p (setPoly p l s) = l.length := by
  simp [plenOf, setPoly, setPlen, writeBytes, Vector.get_eq_getElem, Nat.mod_eq_of_lt h]

theorem strip_cons_zero (l : List Byte) : strip (0 :: l) = strip l := by simp [strip]

theorem strip_cons_of_ne {c : Byte} (h : c ≠ 0) (l : List Byte) : strip (c :: l) = c :: l := if_neg h

/-- `strip` keeps a suffix, or gives `[0]`. -/
theorem strip_cases (l : List Byte) :
    (strip l = [0] ∧ ∀ b ∈ l, b = 0) ∨
      ∃ k c cs, l = List.replicate k 0 ++ c :: cs ∧ c ≠ 0 ∧ strip l = c :: cs := by
  induction l with
  | nil => exact .inl ⟨rfl, by simp⟩
  | cons c cs ih =>
    by_cases h : c = 0
    · subst h
      rw [strip_cons_zero]
      rcases ih with ⟨e, hz⟩ | ⟨k, d, ds, e, hd, hs⟩
      · exact .inl ⟨e, by simpa using hz⟩
      · exact .inr ⟨k + 1, d, ds, by simp [e, List.replicate_succ], hd, hs⟩
    · exact .inr ⟨0, c, cs, by simp, h, strip_cons_of_ne h cs⟩

theorem strip_ne_nil (l : List Byte) : strip l ≠ [] := by
  rcases strip_cases l with ⟨e, _⟩ | ⟨_, _, _, _, _, e⟩ <;> simp [e]

theorem strip_strip (l : List Byte) : strip (strip l) = strip l := by
  rcases strip_cases l with ⟨e, _⟩ | ⟨_, c, cs, _, hc, e⟩
  · simp [e, strip]
  · rw [e, strip_cons_of_ne hc]

theorem length_strip_le {l : List Byte} (h : l ≠ []) : (strip l).length ≤ l.length := by
  rcases strip_cases l with ⟨e, _⟩ | ⟨k, c, cs, hl, _, e⟩
  · rw [e]; exact List.length_pos_iff.mpr h
  · rw [e, hl]; simp

theorem length_mulList (a b : List Byte) : (mulList a b).length = a.length + b.length - 1 := by simp [mulList]

theorem length_genStep (g : List Byte) (i : Nat) : (genStep g i).length = g.length + 1 := by simp [genStep]

theorem length_rsgenpoly (n : Nat) : (rsgenpoly n).length = n + 1 := by
  induction n with
  | zero => rfl
  | succ n ih => rw [rsgenpoly, length_genStep, ih]

theorem length_reduceOnce {a b : List Byte} (h : b.length ≤ a.length) (r : Int) : (reduceOnce a b r).length = a.length := by
  simp [reduceOnce]; omega

theorem length_partition (ns : List Nat) (l : List Byte) : (partition ns l).length = ns.length := by
  induction ns generalizing l with
  | nil => rfl
  | cons n ns ih => simp [partition, ih]

/-- Cutting a stream of the blocks' whole length gives blocks of the asked lengths. -/
theorem map_length_partition (ns : List Nat) (l : List Byte) (h : ns.sum ≤ l.length) :
    (partition ns l).map List.length = ns := by
  induction ns generalizing l with
  | nil => rfl
  | cons n ns ih =>
    simp only [List.sum_cons] at h
    simp only [partition, List.map_cons, List.length_take]
    rw [ih _ (by rw [List.length_drop]; omega), Nat.min_eq_left (by omega)]

end Sys2Proof.Machine
end

