-- ==== Sys2Proof/Laws/Step.lean ====
section
/-! SUPPORT. The parts of a clock cycle, each said once: the host's access, the pending command, the whole cycle. -/

namespace Sys2Proof.Machine

theorem hostRead_pend (a : Addr) (s : State) : (hostRead a s).pend = s.pend := by
  simp only [hostRead]; split <;> rfl

theorem hostRead_wait (a : Addr) (s : State) : (hostRead a s).wait = s.wait := by
  simp only [hostRead]; split <;> rfl

/-- While a command is pending, a write keeps it and its countdown. -/
theorem hostWrite_busy (a : Addr) (w : Word) (s : State) (h : busy s = true) :
    (hostWrite a w s).pend = s.pend ∧ (hostWrite a w s).wait = s.wait := by
  simp only [hostWrite, h, Bool.true_and]
  split
  · exact ⟨rfl, rfl⟩
  · rename_i hn
    by_cases hc : targetOf a.toNat = .ctrl
    · rw [hc]; exact ⟨rfl, rfl⟩
    · have hs : targetOf a.toNat = .status := by simpa [hc] using hn
      rw [hs]; exact ⟨rfl, rfl⟩

/-- While a command is pending, whatever the host does short of a reset keeps it and its countdown. -/
theorem hostAct_busy {op : BusOp} {s : State} (ho : op ≠ .reset) (h : busy s = true) :
    (hostAct op s).pend = s.pend ∧ (hostAct op s).wait = s.wait := by
  cases op with
  | idle => exact ⟨rfl, rfl⟩
  | read a => exact ⟨hostRead_pend a s, hostRead_wait a s⟩
  | write a w => exact hostWrite_busy a w s h
  | reset => exact absurd rfl ho

/-- The atomic step of any word ends the command. -/
theorem runCommand_ends (w : Word) (s : State) : ∃ t, runCommand w s = .next t ∧ t.pend = none ∧ t.done = true := by
  simp only [runCommand]
  split
  · rename_i i _
    rcases exec_ends i s with ⟨code, _, e⟩ | ⟨u, e, _⟩
    · exact ⟨_, e, rfl, rfl⟩
    · exact ⟨_, e, rfl, rfl⟩
  · exact ⟨_, rfl, rfl, rfl⟩

/-- A step is a cycle on the first entry of the inbox, `idle` where there is none. -/
theorem step_eq_cycle (s : State) : step s = cycle (s.inbox.headD .idle) { s with inbox := s.inbox.tail } := by
  cases s with
  | mk => rename_i inbox _ _ _; cases inbox <;> rfl

theorem cycle_eq {op : BusOp} (s : State) (h : op ≠ .reset) : cycle op s = engineTurn s.pend s.wait (hostAct op s) := by
  cases op <;> first | rfl | exact absurd rfl h

/-- What a cycle can do: a reset, no command pending, the pending command run, or the pending command waiting. -/
theorem cycle_cases {op : BusOp} {s t : State} (h : cycle op s = .next t) :
    (op = .reset ∧ t = resetEvent s) ∨ (op ≠ .reset ∧
      ((s.pend = none ∧ t = hostAct op s) ∨
       (∃ w, s.pend = some w ∧ s.wait = 0 ∧ runCommand w (hostAct op s) = .next t) ∨
       ∃ w, s.pend = some w ∧ s.wait ≠ 0 ∧ t = { hostAct op s with wait := s.wait - 1 })) := by
  by_cases ho : op = .reset
  · subst ho; exact .inl ⟨rfl, by cases h; rfl⟩
  · refine .inr ⟨ho, ?_⟩
    rw [cycle_eq s ho] at h
    cases hp : s.pend with
    | none => rw [hp] at h; exact .inl ⟨rfl, by cases h; rfl⟩
    | some w =>
      rw [hp] at h
      simp only [engineTurn] at h
      split at h
      · exact .inr (.inl ⟨w, rfl, ‹_›, h⟩)
      · exact .inr (.inr ⟨w, rfl, ‹_›, by cases h; rfl⟩)

/-- Every step answers a next state. -/
theorem step_next (s : State) : ∃ t, step s = .next t := by
  rw [step_eq_cycle]
  by_cases ho : s.inbox.headD .idle = .reset
  · rw [ho]; exact ⟨_, rfl⟩
  · rw [cycle_eq _ ho]
    simp only [engineTurn]
    split
    · exact ⟨_, rfl⟩
    · split
      · obtain ⟨t, e, _⟩ := runCommand_ends _ (hostAct (s.inbox.headD .idle) { s with inbox := s.inbox.tail })
        exact ⟨t, e⟩
      · exact ⟨_, rfl⟩

end Sys2Proof.Machine
end

