-- ==== Sys2Proof/Tests/Slice0.lean ====
section
/-! SUPPORT. Tests: expected values are those of spec/95_test_vectors.md or of the rule named, never the model's own
answer. After them, one witness for the hypotheses of each statement, several where a statement has several clauses. -/

namespace Sys2Proof.Tests

open Sys2Proof Sys2Proof.Machine

-- A table of 256 entries is deeper than the default.
set_option maxRecDepth 8000

/-! ## Well-formedness: each check refuses an ill-formed command -/

theorem test_wellformed_refuses_shift_256 : ¬ (Instr.pnorm 1 0 256).WellFormed := by decide

theorem test_wellformed_refuses_degree_256 : ¬ (Instr.rsgen 1 256).WellFormed := by decide

theorem test_wellformed_refuses_mask_8 : ¬ (Instr.mpred 0 1 2 8).WellFormed := by decide

/-! ## Tables: R110, R111 -/

theorem test_exp_recurrence :
    expRom.length = 256 ∧ expRom.head? = some 1 ∧ (expRom.zip expRom.tail).all (fun p => p.2 == xtime p.1) = true := by
  decide

/-! ## Decoding: section 6.7 of 95_test_vectors.md, every constructor -/

/-- Words written out from the encoding, and the command each is. -/
def legalWords : List (Word × Instr) :=
  [(0x00000000, .nop), (0x04A00000, .gexp 1 2), (0x09100000, .glog 2 1), (0x0D940000, .gfmul 3 1 2),
   (0x21002000, .pnorm 1 0 2), (0x23CFF000, .pnorm 3 3 255), (0x24A00000, .pmul 0 2 2), (0x2B600000, .pmod 3 1 2),
   (0x2E002000, .rsgen 2 2), (0x2F01E000, .rsgen 3 30),
   (0x40000000, .rsenc), (0x60800000, .bchfmt 1 0), (0x65000000, .bchver 2 0), (0x80000000, .minit),
   (0x84000000, .mplace), (0x8B800000, .mscore 7), (0x8C000000, .mbuild), (0x93FFC000, .mpred 7 7 7 7),
   (0x91954000, .mpred 3 1 2 5), (0x21000000, .pnorm 1 0 0)]

theorem test_decode_legal_words : ∀ p ∈ legalWords, decodeTableWord 32 p.1.toNat = some p.2 := by decide

theorem test_encode_legal_words : ∀ p ∈ legalWords, encode p.2 = p.1 := by decide

/-- The fields of `GFMUL X5, X2, X6`, bit by bit: opcode 000011, rd 101, ra 010, rb 110, seventeen zeros. -/
theorem test_decode_gfmul_bits : decodeTableWord 32 0b00001110101011000000000000000000 = some (.gfmul 5 2 6) := by
  decide

/-- The fields of `PMOD P2, P1, P3`: opcode 001010, pd 10, pa 01, pb 11, twenty zeros. -/
theorem test_decode_pmod_bits : decodeTableWord 32 0b00101010011100000000000000000000 = some (.pmod 2 1 3) := by decide

/-- The illegal words of section 6.7. -/
def illegalWords : List Word :=
  [0x00000001, 0x04000001, 0x04020000, 0x0C010000, 0x20100000, 0x20000800, 0x24001000, 0x2C400000, 0x40800000,
   0x88100000, 0x90002000, 0x10000000, 0x44000000, 0x94000000, 0xFFFFFFFF]

theorem test_decode_illegal_words : (illegalWords.all fun w => (decodeTableWord 32 w.toNat).isNone) = true := by
  decide

/-! ## One step of each command -/

/-- The state in which one step from `s` with command word `w` ends; `s` itself where it does not end in one. -/
def after (w : Nat) (s : State) : State :=
  match step (s.withFetchWord 32 w) with
  | .next t => t
  | .fault _ | .refused _ => s

/-- The reset state with a list of scalar registers. -/
def withX (l : List Word) : State := { State.reset with x := Vector.ofFn fun r => l.getD r.val 0 }

/-- `PR[p] <- l` as the host writes it. -/
def hostPoly (p : Fin 4) (l : List Byte) (s : State) : State := setPoly p l s

/-- A version-1 state with EC code `ec`, mask selection `m`, `DATA` and `CW`. -/
def v1 (ec : BitVec 2) (m : BitVec 4) (data cw : List Byte) : State :=
  writeBytes dataBase data (writeBytes cwBase cw
    { State.reset with
      version := 1, ec := ec, maskSel := m, dlen := BitVec.ofNat 13 data.length
      cwlen := BitVec.ofNat 13 cw.length })

theorem test_nop : statusWord (after 0x00000000 State.reset) = 0x002 := by decide

theorem test_illegal_word :
    statusWord (after 0x20100000 State.reset) = 0x506 ∧ (after 0x20100000 State.reset).cmdRead = 0x20100000 := by decide

theorem test_gexp : ((after 0x04A00000 (withX [0, 0, 256])).x.get 1) = 0x02 := by decide

theorem test_gexp_large : ((after 0x04A00000 (withX [0, 0, 0xFFFFFFFF])).x.get 1) = 0x01 := by decide

theorem test_glog : ((after 0x09100000 (withX [0, 0xFF])).x.get 2) = 175 := by decide

theorem test_glog_faults :
    statusWord (after 0x09100000 (withX [0, 0])) = 0x406 ∧ statusWord (after 0x09100000 (withX [0, 0x100])) = 0x106 := by
  decide

theorem test_gfmul : ((after 0x0D940000 (withX [0, 0x53, 0xCA])).x.get 3) = 0x8F := by decide

theorem test_gfmul_same_register : ((after 0x0C920000 (withX [0, 0x53])).x.get 1) = 0xD5 := by decide

theorem test_pnorm :
    polyOf 1 (after 0x21002000 (hostPoly 0 [0, 0, 5, 0] State.reset)) = [5, 0, 0, 0] := by decide

theorem test_pnorm_in_place :
    polyOf 1 (after 0x21401000 (hostPoly 1 [3, 0] State.reset)) = [3, 0, 0] := by decide

theorem test_pmul :
    polyOf 0 (after 0x24A00000 (hostPoly 2 [1, 3, 2] State.reset)) = [1, 0, 5, 0, 4] := by decide

theorem test_pmul_zero_coefficient :
    statusWord (after 0x24A00000 (hostPoly 2 [0, 0, 1] State.reset)) = 0x406 := by decide

theorem test_pmod :
    polyOf 3 (after 0x2B600000
      (hostPoly 2 [0x01, 0x0F, 0x36, 0x78, 0x40] (hostPoly 1 [1, 2, 3, 4, 5] State.reset))) = [0x0D, 0x35, 0x7C, 0x45] := by
  decide

theorem test_pmod_zero_in_divisor :
    polyOf 3 (after 0x2B600000 (hostPoly 2 [1, 0, 1] (hostPoly 1 [5] State.reset))) = [5] ∧
    statusWord (after 0x2B600000 (hostPoly 2 [1, 0, 1] (hostPoly 1 [1, 0, 1] State.reset))) = 0x406 := by decide

theorem test_rsgen : polyOf 2 (after 0x2E002000 State.reset) = [1, 3, 2] := by decide

theorem test_rsgen_seven :
    polyOf 2 (after 0x2E007000 State.reset) = [0x01, 0x7F, 0x7A, 0x9A, 0xA4, 0x0B, 0x44, 0x75] := by decide

theorem test_rsenc_faults :
    statusWord (after 0x40000000 (v1 2 0 (List.replicate 14 0) [])) = 0x306 ∧
    statusWord (after 0x40000000 (v1 2 0 (List.replicate 12 0) [])) = 0x206 := by decide

/-- The data columns of the two-group interleave of version 5-Q, `DATA[i] = i` (section 6.3): the last two entries come
from the long blocks alone. -/
theorem test_interleave_two_groups :
    (columns (dataBlocks 5 2 ((List.range 62).map (BitVec.ofNat 8)))).drop 52 =
      [0x0D, 0x1C, 0x2B, 0x3B, 0x0E, 0x1D, 0x2C, 0x3C, 0x2D, 0x3D] := by decide

theorem test_bchfmt : ((after 0x60800000 (withX [24])).x.get 1) = 0x355F := by decide

theorem test_bchfmt_fault : statusWord (after 0x60800000 (withX [32])) = 0x106 := by decide

theorem test_bchver : ((after 0x65000000 (withX [40])).x.get 2) = 0x28C69 := by decide

theorem test_bchver_fault : statusWord (after 0x65000000 (withX [64])) = 0x106 := by decide

theorem test_minit :
    ([(0, 0), (1, 1), (6, 8), (7, 8), (8, 8), (13, 8), (9, 9), (20, 20), (21, 0)].map fun p =>
      cellWord p.1 p.2 (after 0x80000000 (v1 0 0 [] []))) = [6, 5, 6, 5, 5, 6, 0, 0, 0] := by decide

theorem test_minit_fault : statusWord (after 0x80000000 State.reset) = 0x106 := by decide

theorem test_mplace_faults :
    statusWord (after 0x84000000 (v1 0 0 [] [])) = 0x606 ∧
    statusWord (after 0x84000000 (v1 0 8 [] [])) = 0x106 ∧
    statusWord (after 0x84000000 { v1 0 0 [] (List.replicate 25 0) with matVer := 1 }) = 0x206 := by decide

theorem test_mscore_fault : statusWord (after 0x88000000 State.reset) = 0x606 := by decide

/-- The inputs of scenario 1 (section 3.1). -/
def helloCW : List Byte :=
  [0x20, 0x5B, 0x0B, 0x78, 0xD1, 0x72, 0xDC, 0x4D, 0x43, 0x40, 0xEC, 0x11, 0xEC, 0xA8, 0x48, 0x16, 0x52, 0xD9, 0x36,
   0x9C, 0x00, 0x2E, 0x0F, 0xB4, 0x7A, 0x10]

theorem test_mbuild_faults :
    statusWord (after 0x8C000000 (v1 2 9 [] helloCW)) = 0x106 ∧
    statusWord (after 0x8C000000 (v1 2 8 [] [])) = 0x206 := by decide

theorem test_mpred : ((after 0x91954000 (withX [0, 3, 3])).x.get 3) = 0 := by decide

theorem test_mpred_seven :
    ((after 0x9195C000 (withX [0, 255, 255])).x.get 3) = 1 ∧
    statusWord (after 0x9195C000 (withX [0, 256, 255])) = 0x106 := by decide

/-! ## The host's side: section 6.8 -/

/-- The read-data port after a read of `a`. -/
def readOf (a : Addr) (s : State) : Word := (hostRead a s).rdata

theorem test_rom_reads :
    ([0x108, 0x21D, 0x404, 0x425, 0x630, 0x631, 0x632, 0x633].map fun a => readOf a State.reset) =
      [0x1D, 8, 0x000D1A01, 0x00102202, 6, 22, 38, 0] := by decide

theorem test_narrow_entry : readOf 0x1000 (hostWrite 0x1000 0x1A5 State.reset) = 0xA5 := by decide

theorem test_busy_write_sets_haz :
    let s := hostWrite 0x004 5 (accept 0 0 State.reset)
    s.dlen = 0 ∧ statusWord s = 0x009 := by decide

theorem test_status_write :
    statusWord (hostWrite 0x001 0x4 (takeFault .internal State.reset)) = 0x002 ∧
    statusWord (hostWrite 0x001 0xF01 (takeFault .internal State.reset)) = 0x406 := by decide

theorem test_reserved_word : readOf 0x00B (hostWrite 0x00B 1 State.reset) = 0 := by decide

/-- Idle, a step does the host's access: a write of CMD is accepted in it (R66), and waits for a later cycle (R305). -/
theorem test_step_accepts_command :
    ∃ t, step { State.reset with inbox := [.write 0x002 0x04A00000] } = .next t ∧
      t.pend = some 0x04A00000 ∧ t.cmdRead = 0x04A00000 ∧ t.inbox = [] ∧ statusWord t = 0x001 :=
  ⟨_, rfl, rfl, rfl, rfl, rfl⟩

/-- A command written in the very cycle in which another completes is dropped and sets HAZ (log 18); DONE stays 1. -/
theorem test_command_write_in_completion_cycle :
    ∃ t, step { accept 0 0 State.reset with inbox := [.write 0x002 0x04A00000] } = .next t ∧
      t.pend = none ∧ t.cmdRead = 0 ∧ statusWord t = 0x00A := ⟨_, rfl, rfl, rfl, rfl⟩

/-! ## Witnesses

Each states that the hypotheses of one statement are met together by a concrete state and operands, at the boundary
values of each clause. -/

/-- A state with a NOP pending, `wait` cycles to go, after a fault. -/
def busyState (wait : Nat) (inbox : List BusOp) : State :=
  { takeFault .internal State.reset with done := false, pend := some 0, wait := wait, inbox := inbox }

theorem witness_DecodeEncodeRoundTrip :
    (Instr.pnorm 3 3 255).WellFormed ∧ (Instr.rsgen 3 255).WellFormed ∧ (Instr.mpred 7 7 7 7).WellFormed := by decide

theorem witness_EachWordHasOneMeaning : decode 0x93FFC000 = .ok (.mpred 7 7 7 7) := by decide

theorem witness_DecodeFollowsOpcodeTable :
    ((0x90000000, 0xFC003FFF) : Word × Word) ∈ opcodeRows ∧ (0x93FFC000 : Word) &&& 0xFC003FFF = 0x90000000 := by decide

/-- A due command, one not yet due (one cycle to go, and more), an illegal word due, and none; with an access and with
an empty inbox. -/
theorem witness_StepRunsDecodedCommand :
    (busyState 0 [.read 5]).inbox.headD .idle ≠ .reset ∧ (busyState 0 []).inbox.headD .idle ≠ .reset ∧
      (busyState 0 [.read 5]).pend = some 0 ∧ (busyState 0 [.read 5]).wait = 0 ∧ decode 0 = .ok .nop ∧
      (busyState 1 [.write 0x002 1]).pend = some 0 ∧ (busyState 1 [.write 0x002 1]).wait ≠ 0 ∧
      (busyState 1 [.write 0x002 1]).inbox.headD .idle ≠ .reset ∧
      ({ busyState 0 [] with pend := some 0xFFFFFFFF } : State).pend = some 0xFFFFFFFF ∧ State.reset.pend = none ∧
      ({ State.reset with inbox := [.write 0x002 1] } : State).inbox.headD .idle ≠ .reset := by decide

theorem witness_IllegalWordTakesFault :
    (∀ row ∈ opcodeRows, (0xFFFFFFFF : Word) &&& row.2 ≠ row.1) ∧
      ∀ row ∈ opcodeRows, (0x20100000 : Word) &&& row.2 ≠ row.1 := by simp [opcodeRows]

theorem witness_CommandCompletesWhenDue :
    (busyState 2 [.write 0x002 1, .read 0x004]).pend = some 0 ∧
      ∀ op ∈ (busyState 2 [.write 0x002 1, .read 0x004]).inbox, op ≠ .reset := by decide

theorem witness_ResetAbandonsPendingCommand :
    (busyState 0 [.reset, .idle]).inbox = .reset :: [.idle] ∧ (busyState 0 [.reset, .idle]).pend = some 0 := by decide

theorem witness_CommandIssue : State.reset.pend = none ∧ (busyState 1 []).pend ≠ none := by decide

/-- A write neither of CTRL nor of STATUS; the ends of the ROM ranges and an unmapped word. -/
theorem witness_BusyRules :
    (busyState 1 []).pend ≠ none ∧ (0x004 : Addr) ≠ 0x000 ∧ (0x004 : Addr) ≠ 0x001 ∧
      (0x100 ≤ (0x100 : Addr).toNat ∧ (0x2FF : Addr).toNat < 0x300) ∧
      (0x400 ≤ (0x400 : Addr).toNat ∧ (0x53F : Addr).toNat < 0x540) ∧
      (0x600 ≤ (0x600 : Addr).toNat ∧ (0x73F : Addr).toNat < 0x740) ∧
      targetOf (0x300 : Addr).toNat = .unmapped ∧ targetOf (0x1FFFF : Addr).toNat = .unmapped := by decide

theorem witness_StatusWriteClears :
    (0xFFFFFFF1 : Word).extractLsb' 1 3 = 0 ∧ (busyState 0 [.write 0x001 0xE]).pend = some 0 ∧
      (busyState 0 [.write 0x001 0xE]).wait = 0 ∧ (busyState 0 [.write 0x001 0xE]).inbox = .write 0x001 0xE :: [] ∧
      (0xE : Word).getLsbD 2 = true ∧ (0xA : Word).getLsbD 2 = false := by decide

theorem witness_ReadsHaveNoSideEffects : State.reset.pend = none ∧ (0x000 : Addr) ≠ 0x001 ∧ (0x000 : Addr) ≠ 0x002 := by
  decide

theorem witness_ReadBackAfterWrite :
    State.reset.pend = none ∧
      ([0x000, 0x003, 0x004, 0x005, 0x018, 0x01B, 0x020, 0x027, 0x1000, 0x13FF, 0x2000, 0x3FFF].map fun a =>
        storedBits (targetOf a)) =
      [some 0x1, some 0x1FFF, some 0x1FFF, some 0x1FFF, some 0x1FF, some 0x1FF, some 0xFFFFFFFF, some 0xFFFFFFFF,
       some 0xFF, some 0xFF, some 0xFF, some 0xFF] ∧ (0x005 : Addr) ≠ 0x004 ∧ (0x1FFFF : Addr) ≠ 0x004 := by decide

theorem witness_ReadOnlyWordsIgnoreWrites :
    ([0x006, 0x010, 0x017, 0x100, 0x2FF, 0x73F, 0x10000, 0x1B0B0].map fun a => storedBits (targetOf a)) =
      List.replicate 8 none ∧
    ([0x00B, 0x0FF, 0x300, 0x540, 0x740, 0x1400, 0x4000, 0x1B100, 0x100B1, 0x1FFFF].map targetOf) =
      List.replicate 10 .unmapped := by decide

/-- Cells at the corners of the matrix; versions 1, 2 and 40 with a group present and one absent; the words on either
side of the unmapped ranges are mapped. -/
theorem witness_AddressMapAndRoms :
    (∀ a ∈ [0x2FF, 0x400, 0x53F, 0x600, 0x73F, 0x1000, 0x13FF, 0x2000, 0x3FFF, 0x10000], targetOf a ≠ .unmapped) ∧
    (blockRow 1 3)[0]? ≠ none ∧ (blockRow 1 3)[1]? = none ∧ (blockRow 40 3)[1]? ≠ none ∧
      (alignPositions 2).head? = some 6 ∧ (alignPositions 40).getLast? = some 170 ∧ targetOf (prAddr 3 255) = .entry 0x13FF ∧ targetOf (cellAddr 176 176) = .cell 176 176 ∧
      targetOf (cellAddr 177 0) = .unmapped ∧ targetOf (cellAddr 0 177) = .unmapped := by decide

/-- A matrix that holds a version, its last cell; the ends of the reserved ranges. -/
theorem witness_SpecialRegisterWords :
    ({ State.reset with matVer := 40, matrix := [] } : State).matVer ≠ 0 ∧ State.reset.matVer = 0 ∧ 176 < 177 ∧
      (0x00A < 0x00B ∧ 0x00F < 0x010) ∧ (0x01B < 0x01C ∧ 0x01F < 0x020) ∧ (0x027 < 0x028 ∧ 0x0FF < 0x100) := by decide

theorem witness_InterruptLine :
    (∃ t, runCommand 0xFFFFFFFF { State.reset with ie := true } = .next t) ∧ (∃ t, exec .nop { State.reset with ie := true } = .next t) ∧ State.reset.pend = none ∧
      (0x2 : Word).getLsbD 1 = true := ⟨⟨_, rfl⟩, ⟨_, rfl⟩, rfl, by decide⟩

theorem witness_ScalarRegisterFrame :
    (∃ t, exec (.gexp 1 2) State.reset = .next t) ∧ destX (.gexp 1 2) ≠ some 0 := ⟨⟨_, rfl⟩, by decide⟩

/-- A polynomial command's store ends at `PLEN[pd]`; the next entry is outside it. -/
theorem witness_ByteArrayFrame :
    (Instr.rsgen 0 255).WellFormed ∧ exec (.rsgen 0 255) State.reset = .next (complete (setPoly 0 (rsgenpoly 255) State.reset)) ∧
      ¬ storesTo .nop State.reset State.reset prBase := ⟨by decide, rfl, fun h => h⟩

theorem witness_ControlFrame :
    (∃ t, exec .minit { State.reset with version := 1 } = .next t) ∧ Instr.minit ≠ .rsenc ∧ destP .minit ≠ some 0 ∧
      writesMatrix .nop = false ∧ Instr.minit ≠ .mbuild := ⟨⟨_, rfl⟩, by decide⟩

theorem witness_GlogResult :
    ((withX [256]).x.get 0).toNat > 255 ∧ (withX [0]).x.get 0 = 0 ∧ 1 ≤ ((withX [1]).x.get 0).toNat ∧
      ((withX [255]).x.get 0).toNat ≤ 255 := by decide

theorem witness_GfmulResult :
    ((withX [256, 0]).x.get 0).toNat > 255 ∧ ((withX [255, 255]).x.get 0).toNat ≤ 255 ∧
      ((withX [255, 255]).x.get 1).toNat ≤ 255 := by decide

theorem witness_NopResult : opcodeOf 0x03FFFFFF = 0 ∧ (0x03FFFFFF : Word) ≠ 0 := by decide

theorem witness_FieldProductLaws : (0x53 : Byte) ≠ 0 ∧ (0xCA : Byte) ≠ 0 := by decide

theorem witness_RsgenResult : 0 < 256 ∧ 255 < 256 := by decide

theorem witness_ExpAndLogInvert : (0xFF : Byte) ≠ 0 := by decide

/-- Source lengths 257, 0, 2 and 256; a source of 2 entries with one leading zero; shifts 255 and 254 about the limit. -/
theorem witness_PnormResult :
    256 < ((setPlen 0 257 State.reset).plen.get 0).toNat ∧ State.reset.plen.get 0 = 0 ∧
      ((setPlen 0 256 State.reset).plen.get 0).toNat ≤ 256 ∧ 0 < ((hostPoly 0 [0, 5] State.reset).plen.get 0).toNat ∧
      (∀ b ∈ polyOf 0 (hostPoly 0 [0, 0] State.reset), b = 0) ∧
      polyOf 0 (hostPoly 0 [0, 5, 7] State.reset) = List.replicate 1 0 ++ 5 :: [7] ∧ (5 : Byte) ≠ 0 ∧
      [(7 : Byte)].length + 1 + 254 ≤ 256 ∧ 256 < [(7 : Byte)].length + 1 + 255 := by decide

/-- Lengths 257; 0; 128 with 130 and with 129; a zero coefficient; none. -/
theorem witness_PmulResult :
    256 < ((setPlen 0 257 State.reset).plen.get 0).toNat ∧ (State.reset.plen.get 0).toNat = 0 ∧
      256 < ((setPlen 1 130 (setPlen 0 128 State.reset)).plen.get 0).toNat +
        ((setPlen 1 130 (setPlen 0 128 State.reset)).plen.get 1).toNat - 1 ∧
      ((setPlen 1 129 (setPlen 0 128 State.reset)).plen.get 0).toNat +
        ((setPlen 1 129 (setPlen 0 128 State.reset)).plen.get 1).toNat - 1 ≤ 256 ∧
      0 ∈ polyOf 0 (hostPoly 0 [1, 0] State.reset) ∧ 0 ∉ polyOf 0 (hostPoly 0 [1, 2] State.reset) := by decide

/-- A divisor with head 0, with a zero behind it, and with none; a dividend of smaller and of equal degree. -/
theorem witness_PmodResult :
    (polyOf 0 (hostPoly 0 [0, 1] State.reset)).head? = some 0 ∧
      (polyOf 0 (hostPoly 0 [1, 0] State.reset)).head? ≠ some 0 ∧ 0 ∈ polyOf 0 (hostPoly 0 [1, 0] State.reset) ∧
      0 ∉ polyOf 0 (hostPoly 0 [1, 3] State.reset) ∧ deg [1, 0] ≤ deg [1, 3] ∧ deg [5] < deg [1, 0] := by decide

theorem witness_RsencResult :
    (v1 2 0 [] []).version ≠ 0 ∧ capacity 1 2 = 13 ∧ capacity 1 2 < (v1 2 0 (List.replicate 14 0) []).dlen.toNat ∧
      (v1 2 0 (List.replicate 12 0) []).dlen.toNat < capacity 1 2 ∧
      (v1 2 0 (List.replicate 13 0) []).dlen.toNat = capacity 1 2 ∧ 40 < (41 : BitVec 6).toNat ∧
      (40 : BitVec 6).toNat ≤ 40 := by decide

/-- Version 5-Q: the first block of the short group and the last of the long one, their last data and EC codewords; and
version 1, of one block. -/
theorem witness_RsencCodewordPositions :
    (let s : State := { v1 2 0 [] [] with version := 5, dlen := 62 }
     legalVersion (versionOf s) = true ∧ s.dlen.toNat = capacity (versionOf s) s.ec.toNat ∧
       (rsBlocks (versionOf s) s.ec.toNat)[0]? = some (33, 15) ∧ (rsBlocks (versionOf s) s.ec.toNat)[3]? = some (34, 16)) ∧
    14 < 15 ∧ 17 < 33 - 15 ∧ 15 < 16 ∧ 17 < 34 - 16 ∧
    (v1 2 0 (List.replicate 13 0) []).dlen.toNat = capacity 1 2 ∧ (rsBlocks 1 2)[0]? = some (26, 13) := by decide

theorem witness_EcBlocksAreReedSolomonCodewords :
    (146, 116) ∈ rsBlocks 29 0 ∧ (List.replicate 116 (7 : Byte)).length = 116 ∧ 29 < 146 - 116 := by decide

theorem witness_RsencAgreesWithPolynomialCommands :
    (1 : Fin 4) ≠ 2 ∧ 0 < plenOf 0 (setPlen 0 226 State.reset) ∧ plenOf 0 (setPlen 0 226 State.reset) + 30 ≤ 256 := by decide

theorem witness_InterleaveColumns :
    (∀ b ∈ [[(1 : Byte), 2], [3, 4]], b.length = 2) ∧ ∀ b ∈ [[(5 : Byte), 6, 7]], b.length = 2 + 1 := by decide

theorem witness_BchfmtResult :
    31 < ((withX [32]).x.get 0).toNat ∧ ((withX [31]).x.get 0).toNat ≤ 31 ∧ (withX [0]).x.get 0 = 0 := by decide

theorem witness_BchverResult : 63 < ((withX [64]).x.get 0).toNat ∧ ((withX [63]).x.get 0).toNat ≤ 63 := by decide

theorem witness_BchRemainder : 0 < 1 ∧ 0 < 0x537 := by decide

theorem witness_BlockTableTotals : 0 < 40 ∧ 39 < 40 ∧ 3 < 4 := by decide

theorem witness_MpredResult :
    255 < ((withX [256, 0]).x.get 0).toNat ∧ ((withX [255, 255]).x.get 0).toNat ≤ 255 ∧
      ((withX [255, 255]).x.get 1).toNat ≤ 255 := by decide

/-- Versions 0, 41, 1 and 40. -/
theorem witness_MinitResult :
    State.reset.version = 0 ∧ 40 < ({ State.reset with version := 41 } : State).version.toNat ∧
      1 ≤ ({ State.reset with version := 1 } : State).version.toNat ∧
      ({ State.reset with version := 40 } : State).version.toNat ≤ 40 := by decide

/-- Boundary versions; an origin and two centres; the format bits and, for version 7, the version bits about the limits;
cells that are function cells and cells that are not. -/
theorem witness_FunctionPatternCells :
    (14, 0) ∈ finderOrigins (sideOf 1) ∧ isDrawnCentre 7 6 22 ∧ isDrawnCentre 40 170 170 ∧ ¬ isDrawnCentre 7 6 38 ∧
      (20, 8) ∈ fmtCells (sideOf 1) 14 ∧ (5, 36) ∈ verCells (sideOf 7) 17 ∧ isFunctionCell 1 6 12 ∧
      isFunctionCell 7 5 36 ∧ ¬ isFunctionCell 1 9 9 ∧ ¬ isFunctionCell 1 20 20 := by
  refine ⟨by decide, ?_, ?_, ?_, by decide, by decide, .inr (.inr (.inr (.inl rfl))), ?_, ?_, ?_⟩
  · unfold isDrawnCentre; decide
  · unfold isDrawnCentre; decide
  · unfold isDrawnCentre; decide
  · exact .inr (.inr (.inr (.inr (.inr (.inr ⟨by decide, .inl (by decide)⟩)))))
  all_goals simp [isFunctionCell, isDrawnCentre, sideOf, show alignPositions 1 = [] from rfl]

/-- A version-1 state after MINIT, mask 3, EC code M, with the stream of scenario 1, one cycle before an MPLACE is due. -/
def readyState : State :=
  { v1 1 3 [] helloCW with matVer := 1, matrix := buildfunc 1, pend := some 0x84000000 }

theorem witness_MplaceResult :
    State.reset.version = 0 ∧ 7 < (v1 0 8 [] []).maskSel.toNat ∧ (v1 0 7 [] []).matVer ≠ (v1 0 7 [] []).version ∧
      readyState.matVer = readyState.version ∧ readyState.cwlen.toNat = totalOf 1 ∧
      ({ readyState with cwlen := 25 } : State).cwlen.toNat ≠ totalOf 1 := by decide

theorem readyState_inv : readyState.Inv where
  mem_wf := by decide
  errcode_iff := by decide
  busy_not_done := by decide
  matVer_le := by decide
  valid_iff_placed := by decide
  placed_version := by decide
  matrix_ok := matrixOk_buildfunc 1 (by decide)

theorem readyState_canPlace : CanPlace readyState := by unfold CanPlace; decide

/-- The first data cell and the last, which holds bit 0 of `CW[25]`. -/
theorem witness_PlacedDataCells :
    readyState.Inv ∧ CanPlace readyState ∧
      ((zigzag 21).filter fun p => !(readyState.matrix.cell p.1 p.2).func)[0]? = some (20, 20) ∧
      ((zigzag 21).filter fun p => !(readyState.matrix.cell p.1 p.2).func)[8 * 25 + 7]? = some (12, 0) :=
  ⟨readyState_inv, readyState_canPlace, by decide, by decide +kernel⟩

/-- The same for version 2, which has remainder bits. -/
def readyState2 : State :=
  { State.reset with version := 2, cwlen := 44, matVer := 2, matrix := buildfunc 2 }

theorem readyState2_inv : readyState2.Inv where
  mem_wf := by decide
  errcode_iff := by decide
  busy_not_done := by decide
  matVer_le := by decide
  valid_iff_placed := by decide
  placed_version := by decide
  matrix_ok := matrixOk_buildfunc 2 (by decide)

/-- The last data cell of version 2 takes the last of the 7 remainder bits. -/
theorem witness_PlacedDataCells_remainder :
    readyState2.Inv ∧ CanPlace readyState2 ∧ 8 * totalOf (versionOf readyState2) = 352 ∧
      ((zigzag 25).filter fun p => !(readyState2.matrix.cell p.1 p.2).func)[358]? = some (16, 0) :=
  ⟨readyState2_inv, by unfold CanPlace; decide, by decide, by decide +kernel⟩

/-- The same for version 7, the least that carries a version word. -/
def readyState7 : State :=
  { State.reset with version := 7, maskSel := 7, ec := 3, cwlen := 196, matVer := 7, matrix := buildfunc 7 }

theorem readyState7_inv : readyState7.Inv where
  mem_wf := by decide
  errcode_iff := by decide
  busy_not_done := by decide
  matVer_le := by decide
  valid_iff_placed := by decide
  placed_version := by decide
  matrix_ok := matrixOk_buildfunc 7 (by decide)

theorem readyState7_canPlace : CanPlace readyState7 := by unfold CanPlace; decide

/-- Both kinds of version; a function cell that is no format or version cell; a cell outside the matrix. -/
theorem witness_PlacedFunctionCells :
    readyState.Inv ∧ CanPlace readyState ∧ readyState7.Inv ∧ CanPlace readyState7 ∧ 7 ≤ versionOf readyState7 ∧
      isInfoCell 1 0 0 = false ∧ (funcCell 1 0 0).func = true :=
  ⟨readyState_inv, readyState_canPlace, readyState7_inv, readyState7_canPlace, by decide⟩

theorem witness_RepeatedPlacementForgetsTheFirst :
    readyState.Inv ∧ CanPlace readyState ∧ (5 : BitVec 4).toNat ≤ 7 := ⟨readyState_inv, readyState_canPlace, by decide⟩

theorem witness_MscoreResult :
    State.reset.matVer = 0 ∧ ({ State.reset with matVer := 40 } : State).placed = false ∧
      ({ State.reset with matVer := 40, placed := true } : State).matVer ≠ 0 := by decide

/-- The first place and the last, and the columns about column 6, in a walk of 420. -/
theorem witness_ZigzagVisitsEachCellOnce :
    1 ≤ 1 ∧ (0, 0) ∈ zigzag (sideOf 1) ∧ walkIndex (sideOf 1) 20 20 = 0 ∧ walkIndex (sideOf 1) 20 0 = 419 ∧
      walkIndex (sideOf 1) 0 7 = 293 ∧ walkIndex (sideOf 1) 0 5 = 294 := by decide

theorem witness_PenaltyRuleAmounts : 1 ≤ 1 ∧ 1 ≤ 10 := by decide

theorem witness_PenaltyFits32Bits : 0 ≤ 40 ∧ 40 ≤ 40 := by decide

theorem witness_PenaltyDependsOnlyOnTheSymbol :
    ∀ r, r < 2 → ∀ c, c < 2 → ((Matrix.cell [] r c).shade = .dark ↔ (Matrix.cell [[⟨.light, true⟩]] r c).shade = .dark) := by
  decide

theorem witness_MbuildResult :
    State.reset.version = 0 ∧ 8 < (v1 0 9 [] []).maskSel.toNat ∧ (v1 0 8 [] []).cwlen.toNat ≠ totalOf 1 ∧
      (v1 0 8 [] helloCW).cwlen.toNat = totalOf 1 ∧ (v1 0 7 [] helloCW).maskSel ≠ 8 ∧
      1 ≤ (v1 0 8 [] helloCW).version.toNat := by decide

theorem witness_MbuildSelectsLeastPenalty :
    legalVersion (versionOf (v1 0 8 [] helloCW)) = true ∧ (v1 0 8 [] helloCW).maskSel = 8 ∧
      (v1 0 8 [] helloCW).cwlen.toNat = totalOf (versionOf (v1 0 8 [] helloCW)) := by decide

theorem witness_MbuildEqualsMinitThenMplace :
    legalVersion (versionOf (v1 0 8 [] helloCW)) = true ∧ (v1 0 8 [] helloCW).maskSel.toNat ≤ 8 ∧
      (v1 0 8 [] helloCW).cwlen.toNat = totalOf (versionOf (v1 0 8 [] helloCW)) := by decide

/-- With FILL = 0 and with FILL = 1; the boundary masks. -/
theorem witness_MbuildCandidateScores :
    legalVersion (versionOf (v1 0 8 [] helloCW)) = true ∧ (v1 0 8 [] helloCW).maskSel = 8 ∧
      (v1 0 8 [] helloCW).cwlen.toNat = totalOf (versionOf (v1 0 8 [] helloCW)) ∧ (v1 0 8 [] helloCW).fill = false ∧
      legalVersion (versionOf { v1 0 8 [] helloCW with fill := true }) = true ∧
      ({ v1 0 8 [] helloCW with fill := true } : State).maskSel = 8 ∧
      ({ v1 0 8 [] helloCW with fill := true } : State).cwlen.toNat =
        totalOf (versionOf { v1 0 8 [] helloCW with fill := true }) := by decide

theorem witness_StepKeepsInvariant : readyState.Inv ∧ ∃ t, step readyState = .next t := ⟨readyState_inv, _, rfl⟩

/-! ## The longer evaluations, last -/

theorem test_log_inverts_exp :
    logRom.length = 256 ∧ logRom.head? = some 0 ∧
      (expRom.take 255).map (fun b => logRom.getD b.toNat 0) = List.range 255 := by decide +kernel

theorem test_rsenc :
    readBytes (cwBase + 18) 8 (after 0x40000000 (v1 0 0 (List.replicate 18 0 ++ [1]) [])) =
      [0x01, 0x7F, 0x7A, 0x9A, 0xA4, 0x0B, 0x44, 0x75] := by decide +kernel

/-- The first eight and the last eight data cells of version 1 in placement order (section 4.2). -/
theorem test_data_cell_order :
    let cells := (zigzag 21).filter fun p => !((buildfunc 1).cell p.1 p.2).func
    cells.take 8 = [(20, 20), (20, 19), (19, 20), (19, 19), (18, 20), (18, 19), (17, 20), (17, 19)] ∧
      cells.drop 200 = [(9, 1), (9, 0), (10, 1), (10, 0), (11, 1), (11, 0), (12, 1), (12, 0)] := by decide +kernel

/-- All-zero codewords, version 1-M, mask 0: a data cell is DARK exactly when `(r + c) mod 2 = 0` (section 6.5). -/
theorem test_mplace :
    let t := after 0x84000000 { v1 1 0 [] (List.replicate 26 0) with matVer := 1, matrix := buildfunc 1 }
    t.fmtw = 0x5412 ∧
      ([(20, 20), (20, 19), (9, 9), (9, 0), (10, 0)].map fun p => cellWord p.1 p.2 t) = [2, 1, 2, 1, 2] := by
  decide +kernel

/-- The synthetic 21 × 21 pictures of section 6.6. -/
theorem test_penalty_pictures :
    penaltyOf 21 (fun _ _ => false) = 2098 ∧ penaltyOf 21 (fun r c => decide ((r + c) % 2 = 0)) = 0 := by decide +kernel

theorem test_mbuild :
    let t := after 0x8C000000 (v1 2 0 [] helloCW)
    t.penalty = 347 ∧ t.fmtw = 0x355F ∧ mstatWord t = 0x101 ∧ rmaskWord t = 0x100 := by decide +kernel

end Sys2Proof.Tests
end

section
/-! PROOFS, state family (1 of 5). What a command stores in the byte arrays: decoded immediates fit their fields, the
results of the polynomial commands and of RSENC have bounded lengths, so every stored byte lands on an entry the command
may store to. -/

namespace Sys2Proof.Machine

/-! ## Decoded operands -/

theorem field_lt (w : Word) (lo len : Nat) : field w lo len < 2 ^ len := Nat.mod_lt _ (Nat.two_pow_pos len)

theorem strict_eq_ok {w : Word} {zeros : List (Nat × Nat)} {i j : Instr} (h : strict w zeros i = .ok j) : j = i := by
  simp only [strict] at h
  split at h
  · cases h; rfl
  · cases h

/-- A step only executes commands whose immediates fit their fields (R93, R94). -/
theorem decode_wellFormed {w : Word} {i : Instr} (h : decode w = .ok i) : i.WellFormed := by
  have h8 : field w 12 8 < 256 := field_lt w 12 8
  have h3 : field w 14 3 < 8 := field_lt w 14 3
  simp only [decode] at h
  split at h
  case h_17 => cases h
  all_goals
    rw [strict_eq_ok h]
    simp [Instr.WellFormed, Instr.wellFormed, h8, h3]

/-! ## The byte stream of RSENC -/

/-- Of the numbers below `n`, those below `k`. -/
theorem sum_range_lt (k n : Nat) : ((List.range n).map fun j => if j < k then 1 else 0).sum = min k n := by
  induction n with
  | zero => simp
  | succ n ih =>
    rw [List.range_succ, List.map_append, List.sum_append, ih, List.map_singleton, List.sum_singleton]
    split <;> omega

theorem length_column_cons (b : List Byte) (bs : List (List Byte)) (j : Nat) :
    (column (b :: bs) j).length = (if j < b.length then 1 else 0) + (column bs j).length := by
  simp only [column, List.filterMap_cons]
  split
  · rename_i h; simp [List.getElem?_eq_none_iff.mp h]
  · rename_i h; rw [List.length_cons, if_pos (List.getElem?_eq_some_iff.mp h).1]; omega

/-- The columns below a bound of all block lengths hold every entry of the blocks once. -/
theorem sum_length_column (bs : List (List Byte)) (n : Nat) (h : ∀ b ∈ bs, b.length ≤ n) :
    ((List.range n).map fun j => (column bs j).length).sum = (bs.map List.length).sum := by
  induction bs with
  | nil => simp [column]
  | cons b bs ih =>
    simp only [length_column_cons, List.sum_map_add, List.map_cons, List.sum_cons]
    rw [sum_range_lt, Nat.min_eq_left (h b List.mem_cons_self), ih fun c hc => h c (List.mem_cons_of_mem _ hc)]

theorem length_le_maxLength {bs : List (List Byte)} {b : List Byte} (h : b ∈ bs) : b.length ≤ maxLength bs :=
  (List.max?_eq_some_iff.mp (List.max?_cons' (x := 0))).2 _ (List.mem_cons_of_mem _ (List.mem_map_of_mem h))

/-- Interleaving keeps every codeword (R157). -/
theorem length_columns (bs : List (List Byte)) : (columns bs).length = (bs.map List.length).sum := by
  rw [columns, List.length_flatMap, sum_length_column bs _ fun b hb => length_le_maxLength hb]

/-! ## Lengths of products and remainders -/

theorem gexp_logOf : ∀ b : Byte, b ≠ 0 → gexp (logOf b) = b := by decide

theorem head?_rsgenpoly (n : Nat) : (rsgenpoly n).head? = some 1 := by
  induction n with
  | zero => rfl
  | succ n ih =>
    obtain ⟨g, hg⟩ : ∃ g, rsgenpoly n = 1 :: g := List.head?_eq_some_iff.mp ih
    simp [rsgenpoly, genStep, hg]

theorem cons_ne_zero {c : Byte} (h : c ≠ 0) (cs : List Byte) : c :: cs ≠ [0] := fun e => h (List.cons.inj e).1

theorem length_reduceOnce_eq (a b : List Byte) (r : Int) : (reduceOnce a b r).length = a.length := by
  simp [reduceOnce]; omega

theorem length_strip_le_max (l : List Byte) : (strip l).length ≤ max 1 l.length := by
  by_cases h : l = []
  · simp [h, strip]
  · exact le_trans (length_strip_le h) (le_max_right _ _)

theorem length_polymul_le {a b c : List Byte} (h : polymul a b = some c) : c.length ≤ max 1 (a.length + b.length - 1) := by
  simp only [polymul] at h
  split at h
  · cases h
  · cases h
    exact (length_strip_le_max _).trans_eq (by rw [length_mulList])

/-- The subtraction of R136 cancels the leading coefficient. -/
theorem reduceOnce_head (c d : Byte) (cs ds : List Byte) (hc : c ≠ 0) :
    ∃ l, l.length = cs.length ∧ reduceOnce (c :: cs) (d :: ds) ((logOf c : Int) - logOf d) = 0 :: l := by
  have hlen := length_reduceOnce_eq (c :: cs) (d :: ds) ((logOf c : Int) - logOf d)
  have hhead : c ^^^ gexp (logOf d + ((logOf c : Int) - logOf d)) = 0 := by
    rw [add_sub_cancel, gexp_logOf c hc]; exact BitVec.xor_self
  simp only [reduceOnce, List.zipWith_cons_cons, hhead, List.cons_append, List.length_cons] at hlen ⊢
  exact ⟨_, Nat.succ.inj hlen, rfl⟩

/-- A remainder is no longer than the dividend. -/
theorem length_polymodLoop_le {b : List Byte} {fuel : Nat} {a r : List Byte} (ha : a ≠ [])
    (h : polymodLoop b fuel a = some r) : r.length ≤ a.length := by
  induction fuel generalizing a with
  | zero => cases h; exact le_rfl
  | succ fuel ih =>
    simp only [polymodLoop] at h
    split at h
    · cases h; exact le_rfl
    · split at h
      · cases h
      · refine (ih (strip_ne_nil _) h).trans ((length_strip_le fun e => ha ?_).trans (length_reduceOnce_eq _ _ _).le)
        exact List.length_eq_zero_iff.mp ((length_reduceOnce_eq _ _ _).symm.trans (List.length_eq_zero_iff.mpr e))

theorem length_polymod_le {a b r : List Byte} (ha : a ≠ []) (h : polymod a b = some r) : r.length ≤ a.length := by
  simp only [polymod] at h
  split at h
  · cases h
  · exact (length_polymodLoop_le (strip_ne_nil a) h).trans (length_strip_le ha)

/-- The loop's bound is enough for a remainder shorter than the divisor, or `[0]`. -/
theorem length_polymodLoop {d : Byte} {ds : List Byte} (hd : d ≠ 0) {fuel : Nat} {a r : List Byte} (ha : strip a = a)
    (hf : a.length ≤ fuel + ds.length ∨ a = [0]) (h : polymodLoop (d :: ds) fuel a = some r) :
    r.length ≤ ds.length ∨ r = [0] := by
  have hdeg : deg (d :: ds) = ds.length := by
    rw [deg, strip_cons_of_ne hd, if_neg (cons_ne_zero hd ds)]; simp
  induction fuel generalizing a with
  | zero => cases h; simpa using hf
  | succ fuel ih =>
    simp only [polymodLoop, hdeg] at h
    split at h
    · rename_i hlt
      cases h
      rw [deg, ha] at hlt
      split at hlt
      · exact .inr ‹_›
      · exact .inl (by omega)
    · rename_i hge
      split at h
      · cases h
      · rcases strip_cases a with ⟨hz, _⟩ | ⟨_, c, cs, _, hc, hs⟩
        · exact absurd (by rw [deg, if_pos hz]; omega) hge
        · have hac : a = c :: cs := ha ▸ hs
          obtain ⟨l, hl, hred⟩ := reduceOnce_head c d cs ds hc
          subst hac
          simp only [List.headD_cons, hred, strip_cons_zero] at h
          refine ih (strip_strip l) ?_ h
          by_cases hn : l = []
          · exact .inr (by rw [hn, strip])
          · have := length_strip_le hn
            rcases hf with hf | hf
            · left; rw [List.length_cons] at hf; omega
            · exact absurd hf (cons_ne_zero hc cs)

/-- The remainder by a generator is shorter than it, or `[0]` (R154). -/
theorem length_polymod_rsgenpoly {a r : List Byte} {e : Nat} (h : polymod a (rsgenpoly e) = some r) :
    r.length ≤ e ∨ r = [0] := by
  obtain ⟨g, hg⟩ : ∃ g, rsgenpoly e = 1 :: g := List.head?_eq_some_iff.mp (head?_rsgenpoly e)
  have hl : g.length = e := by
    have := length_rsgenpoly e
    rw [hg, List.length_cons] at this
    omega
  rw [polymod, hg, List.headD_cons, if_neg (by decide)] at h
  rw [← hl]
  refine length_polymodLoop (by decide) (strip_strip a) ?_ h
  by_cases ha : a = []
  · exact .inr (by rw [ha, strip])
  · exact .inl ((length_strip_le ha).trans (Nat.le_add_right _ _))

/-- An EC block has the EC length asked for (R154, R155). -/
theorem length_ecblock (d : List Byte) (e : Nat) : (ecblock d e).length = e := by
  have hr : ((polymod (pnormPoly d e) (rsgenpoly e)).getD [0]).length ≤ e ∨
      (polymod (pnormPoly d e) (rsgenpoly e)).getD [0] = [0] := by
    cases h : polymod (pnormPoly d e) (rsgenpoly e) with
    | none => exact .inr rfl
    | some r => exact length_polymod_rsgenpoly h
  simp only [ecblock, zeros, List.length_append, List.length_replicate]
  generalize (polymod (pnormPoly d e) (rsgenpoly e)).getD [0] = r at hr ⊢
  split
  · simp
  · rcases hr with hr | hr
    · omega
    · exact absurd hr ‹_›

/-! ## The block table -/

theorem map_length_dataBlocks {v ec : Nat} {data : List Byte} (h : data.length = capacity v ec) :
    (dataBlocks v ec data).map List.length = (rsBlocks v ec).map Prod.snd :=
  map_length_partition _ _ h.ge

theorem map_length_ecBlocks (v ec : Nat) (data : List Byte) :
    (ecBlocks v ec data).map List.length = (rsBlocks v ec).map fun b => b.1 - b.2 := by
  have hl : (dataBlocks v ec data).length = (rsBlocks v ec).length := by simp [dataBlocks, length_partition]
  refine List.ext_getElem (by simp [ecBlocks, hl]) fun i h1 h2 => ?_
  simp [ecBlocks, length_ecblock]

/-- The stream of RSENC is as long as the row's blocks together (R156). -/
theorem length_rsStream_eq_sum {v ec : Nat} {data : List Byte} (h : data.length = capacity v ec)
    (hb : ∀ b ∈ rsBlocks v ec, b.2 ≤ b.1) : (rsStream v ec data).length = ((rsBlocks v ec).map Prod.fst).sum := by
  rw [rsStream, interleave, List.length_append, length_columns, length_columns, map_length_dataBlocks h,
    map_length_ecBlocks, ← List.sum_map_add]
  exact congrArg List.sum (List.map_congr_left fun b m => Nat.add_sub_cancel' (hb b m))

set_option maxRecDepth 4000 in
/-- Facts of the table: the rows of a version agree in their total, which the CW array holds; no block has more data
codewords than codewords (R151). -/
theorem blockRow_facts : ∀ v < 41, 1 ≤ v → totalOf v ≤ 4096 ∧ ∀ ec < 4,
    ((blockRow v ec).map fun g => g.count * g.total).sum = totalOf v ∧ ∀ g ∈ blockRow v ec, g.data ≤ g.total := by
  decide

theorem sum_map_fst_rsBlocks (v ec : Nat) :
    ((rsBlocks v ec).map Prod.fst).sum = ((blockRow v ec).map fun g => g.count * g.total).sum := by
  rw [rsBlocks]
  induction blockRow v ec with
  | nil => rfl
  | cons g gs ih => simp [ih]

theorem legalVersion_iff (v : Nat) : legalVersion v = true ↔ 1 ≤ v ∧ v ≤ 40 := by simp [legalVersion]

/-- RSENC writes the version's codewords, which the CW array holds (R46, R156). -/
theorem length_rsStream {v ec : Nat} {data : List Byte} (hv : legalVersion v = true) (hec : ec < 4)
    (h : data.length = capacity v ec) : (rsStream v ec data).length = totalOf v ∧ totalOf v ≤ 4096 := by
  obtain ⟨h1, h40⟩ := (legalVersion_iff v).mp hv
  obtain ⟨hmax, hrow⟩ := blockRow_facts v (by omega) h1
  obtain ⟨hsum, hdata⟩ := hrow ec hec
  refine ⟨?_, hmax⟩
  rw [length_rsStream_eq_sum h, sum_map_fst_rsBlocks, hsum]
  intro b hb
  obtain ⟨g, hg, hgb⟩ := List.mem_flatMap.mp hb
  rw [(List.mem_replicate.mp hgb).2]
  exact hdata g hg

/-! ## What a command stores in PR, DATA and CW -/

/-- A polynomial command ends with a fault, or with its register written to a polynomial that fits (R130 to R140). -/
theorem exec_poly {i : Instr} {p : Fin 4} {s t : State} (hw : i.WellFormed) (hp : destP i = some p)
    (h : exec i s = .next t) :
    (∃ code, t = takeFault code s) ∨ ∃ l : List Byte, l.length ≤ 256 ∧ t = complete (setPoly p l s) := by
  cases i <;> cases hp
  case pnorm pa shift =>
    simp only [exec, execPnorm] at h
    split at h
    · cases h; exact .inl ⟨_, rfl⟩
    split at h
    · cases h; exact .inl ⟨_, rfl⟩
    split at h
    · cases h; exact .inl ⟨_, rfl⟩
    · cases h; exact .inr ⟨_, Nat.not_lt.mp ‹_›, rfl⟩
  case pmul pa pb =>
    simp only [exec, execPmul] at h
    split at h
    · cases h; exact .inl ⟨_, rfl⟩
    split at h
    · cases h; exact .inl ⟨_, rfl⟩
    split at h
    · cases h; exact .inl ⟨_, rfl⟩
    rename_i hfit
    split at h
    · cases h; exact .inl ⟨_, rfl⟩
    · rename_i c hc
      cases h
      have hlen := length_polymul_le hc
      rw [length_polyOf, length_polyOf] at hlen
      exact .inr ⟨c, hlen.trans (max_le (by decide) (Nat.not_lt.mp hfit)), rfl⟩
  case pmod pa pb =>
    simp only [exec, execPmod] at h
    split at h
    · cases h; exact .inl ⟨_, rfl⟩
    rename_i hlong
    split at h
    · cases h; exact .inl ⟨_, rfl⟩
    rename_i hempty
    split at h
    · cases h; exact .inl ⟨_, rfl⟩
    · rename_i r hr
      cases h
      refine .inr ⟨r, ?_, rfl⟩
      simp only [tooLong, isEmpty, decide_eq_true_eq, not_or] at hlong hempty
      have hlen := length_polyOf pa s
      have hne : polyOf pa s ≠ [] := fun e => hempty.1 (by rw [← hlen, e]; rfl)
      exact (length_polymod_le hne hr).trans (hlen.trans_le (Nat.not_lt.mp hlong.1))
  case rsgen n =>
    cases h
    have hn : n < 256 := of_decide_eq_true hw
    exact .inr ⟨_, by rw [length_rsgenpoly]; exact hn, rfl⟩

/-- RSENC ends with a fault, or with the version's codewords in CW (R156). -/
theorem exec_rsenc {s t : State} (h : exec .rsenc s = .next t) :
    (∃ code, t = takeFault code s) ∨ ∃ l : List Byte, l.length = totalOf (versionOf s) ∧ l.length ≤ 4096 ∧
      t = complete { writeBytes cwBase l s with cwlen := BitVec.ofNat 13 l.length } := by
  simp only [exec, execRsenc] at h
  split at h
  · cases h; exact .inl ⟨_, rfl⟩
  rename_i hv
  split at h
  · cases h; exact .inl ⟨_, rfl⟩
  rename_i hover
  split at h
  · cases h; exact .inl ⟨_, rfl⟩
  · rename_i hunder
    cases h
    obtain ⟨hlen, hmax⟩ := length_rsStream (data := readBytes dataBase s.dlen.toNat s) (by simpa using hv) s.ec.isLt
      (by rw [length_readBytes]; omega)
    exact .inr ⟨_, hlen, hlen.trans_le hmax, rfl⟩

theorem storesTo_of_destP {i : Instr} {p : Fin 4} (h : destP i = some p) (s t : State) (a : Nat) :
    storesTo i s t a ↔ prAddr p 0 ≤ a ∧ a < prAddr p (plenOf p t) := by
  cases i <;> cases h <;> rfl

/-- All a command does to the byte arrays: it stores a list of bytes, at addresses that hold an entry and are among
those it may store to (R44 to R46, R132). -/
theorem exec_stores {i : Instr} {s t : State} (hw : i.WellFormed) (h : exec i s = .next t) :
    ∃ a l, t.mem = s.mem.setList a l ∧
      ∀ k, k < l.length → isEntry (a + k) = true ∧ storesTo i s t (a + k) := by
  have hnone : t.mem = s.mem → ∃ a l, t.mem = s.mem.setList a l ∧
      ∀ k, k < l.length → isEntry (a + k) = true ∧ storesTo i s t (a + k) := fun e =>
    ⟨0, [], e, fun k hk => absurd hk (Nat.not_lt_zero k)⟩
  cases hp : destP i with
  | some p =>
    rcases exec_poly hw hp h with ⟨code, rfl⟩ | ⟨l, hl, rfl⟩
    · exact hnone rfl
    · refine ⟨prAddr p 0, l, rfl, fun k hk => ⟨isEntry_pr p (i := k) (by omega), ?_⟩⟩
      rw [storesTo_of_destP hp, show plenOf p (complete (setPoly p l s)) = l.length from
        plenOf_setPoly p l s (by omega)]
      unfold prAddr; omega
  | none =>
    by_cases hi : i = .rsenc
    · subst hi
      rcases exec_rsenc h with ⟨code, rfl⟩ | ⟨l, htotal, hmax, rfl⟩
      · exact hnone rfl
      · refine ⟨cwBase, l, rfl, fun k hk => ⟨isEntry_cw (by omega), ?_⟩⟩
        simp only [storesTo]; omega
    · rcases exec_next h with ⟨code, _, rfl⟩ | ⟨u, rfl, hu⟩
      · exact hnone rfl
      · exact hnone (hu.mem hp hi)

end Sys2Proof.Machine
end

section
/-! PROOFS, state family (2 of 5). A placement over a good matrix gives a good placed matrix. -/

namespace Sys2Proof.Machine

/-! ## The zig-zag walk reaches every column but the timing column -/

theorem mem_pairVisits {n col r c : Nat} {up : Bool} :
    (r, c) ∈ pairVisits n col up ↔ r < n ∧ (c = col ∨ c = col - 1) := by
  cases up <;> simp [pairVisits, ← and_or_left, and_left_comm]

/-- The column pairs from `col` on: even right columns above column 6, odd ones below it (R212). -/
theorem mem_zigzagFrom {n fuel col r c : Nat} (up : Bool) (hfuel : col ≤ 2 * fuel)
    (hcol : (col % 2 = 0 ∧ 6 ≤ col) ∨ (col % 2 = 1 ∧ col ≤ 5)) (hr : r < n) (hc : c ≤ col) (h6 : c ≠ 6) :
    (r, c) ∈ zigzagFrom n fuel col up := by
  induction fuel generalizing col up with
  | zero => omega
  | succ fuel ih =>
    rw [zigzagFrom, if_neg (by omega)]
    refine List.mem_append.mpr ?_
    rw [mem_pairVisits]
    by_cases hcol6 : col = 6
    · rw [if_pos hcol6]
      by_cases hpair : c = 5 ∨ c = 5 - 1
      · exact .inl ⟨hr, hpair⟩
      · exact .inr (ih _ (by omega) (by omega) (by omega))
    · rw [if_neg hcol6]
      by_cases hpair : c = col ∨ c = col - 1
      · exact .inl ⟨hr, hpair⟩
      · exact .inr (ih _ (by omega) (by omega) (by omega))

theorem mem_zigzag {v r c : Nat} (hr : r < sideOf v) (hc : c < sideOf v) (h6 : c ≠ 6) :
    (r, c) ∈ zigzag (sideOf v) := by
  unfold sideOf at *
  exact mem_zigzagFrom true (by omega) (by omega) hr (by omega) h6

theorem zigzagFrom_bounds {n fuel col : Nat} {up : Bool} {p : Nat × Nat} (hcol : col < n)
    (h : p ∈ zigzagFrom n fuel col up) : p.1 < n ∧ p.2 < n := by
  induction fuel generalizing col up with
  | zero => cases h
  | succ fuel ih =>
    rw [zigzagFrom] at h
    split at h
    · cases h
    · have hcol' : (if col = 6 then 5 else col) < n := by split <;> omega
      rcases List.mem_append.mp h with h | h
      · obtain ⟨h1, h2⟩ := mem_pairVisits.mp h
        exact ⟨h1, by omega⟩
      · exact ih (by omega) h

theorem zigzag_bounds {v : Nat} {p : Nat × Nat} (h : p ∈ zigzag (sideOf v)) : p.1 < sideOf v ∧ p.2 < sideOf v :=
  zigzagFrom_bounds (by unfold sideOf; omega) h

/-! ## Column 6 holds function cells only -/

theorem overlay_eq_none {a b : Option Shade} : overlay a b = none ↔ a = none ∧ b = none := by
  cases b <;> simp [overlay]

theorem finderAt_eq_none {o : Nat × Nat} {r c : Nat} (h : finderAt o r c = none) :
    ¬ (o.1 ≤ r + 1 ∧ r ≤ o.1 + 7 ∧ o.2 ≤ c + 1 ∧ c ≤ o.2 + 7) := by
  simp only [finderAt] at h
  split at h
  · cases h
  · omega

theorem timingLayer_eq_none {n r c : Nat} (h : timingLayer n r c = none) : ¬ (c = 6 ∧ 8 ≤ r ∧ r ≤ n - 9) := by
  simp only [timingLayer] at h
  split at h
  · cases h
  split at h
  · cases h
  · assumption

theorem funcShade_eq_none {v r c : Nat} (h : funcShade v r c = none) :
    finderLayer (sideOf v) r c = none ∧ timingLayer (sideOf v) r c = none := by
  simp only [funcShade] at h
  split at h
  · cases h
  split at h
  · cases h
  split at h
  · cases h
  · obtain ⟨h, -⟩ := overlay_eq_none.mp h
    split at h
    · exact ⟨‹_›, h⟩
    · exact absurd h ‹_›

/-- The timing column and the finders beside it fill column 6 (R191, R192). -/
theorem funcCell_col6 {v r : Nat} (hr : r < sideOf v) : (funcCell v r 6).func = true := by
  unfold funcCell
  split
  · rfl
  · rename_i h
    obtain ⟨hfinder, htiming⟩ := funcShade_eq_none h
    simp only [finderLayer, finderOrigins, List.foldl_cons, List.foldl_nil, overlay_eq_none] at hfinder
    obtain ⟨⟨⟨-, htop⟩, hbottom⟩, -⟩ := hfinder
    have htop := finderAt_eq_none htop
    have hbottom := finderAt_eq_none hbottom
    have htiming := timingLayer_eq_none htiming
    unfold sideOf at *
    omega

/-! ## Where format, version and dark-module cells lie -/

theorem allFmtCells_bounds {n : Nat} (hn : 17 ≤ n) {p : Nat × Nat} (h : p ∈ allFmtCells n) : p.1 < n ∧ p.2 < n := by
  obtain ⟨i, hi, hp⟩ := List.mem_flatMap.mp h
  have hi := List.mem_range.mp hi
  simp only [fmtCells] at hp
  split at hp
  next => rcases List.mem_pair.mp hp with rfl | rfl <;> dsimp only <;> omega
  split at hp
  next => rcases List.mem_pair.mp hp with rfl | rfl <;> dsimp only <;> omega
  split at hp
  next => rcases List.mem_pair.mp hp with rfl | rfl <;> dsimp only <;> omega
  split at hp
  · rcases List.mem_pair.mp hp with rfl | rfl <;> dsimp only <;> omega
  · rcases List.mem_pair.mp hp with rfl | rfl <;> dsimp only <;> omega

theorem allVerCells_bounds {v : Nat} {p : Nat × Nat} (h : p ∈ allVerCells v) : p.1 < sideOf v ∧ p.2 < sideOf v := by
  simp only [allVerCells] at h
  split at h
  · obtain ⟨i, hi, hp⟩ := List.mem_flatMap.mp h
    have hi := List.mem_range.mp hi
    unfold sideOf at *
    rcases List.mem_pair.mp hp with rfl | rfl <;> dsimp only <;> omega
  · cases h

theorem isInfoCell_eq_false {v r c : Nat} :
    isInfoCell v r c = false ↔ (r, c) ∉ allFmtCells (sideOf v) ∧ (r, c) ∉ allVerCells v := by simp [isInfoCell]

/-- A cell `writeinfo` may write, with the shade bit it may write there (R216). -/
def InfoWrite (v : Nat) (p : Nat × Nat) (b : Bool) : Prop :=
  p ∈ allFmtCells (sideOf v) ∨ (p = darkModule (sideOf v) ∧ b = true) ∨ p ∈ allVerCells v

theorem infoWrite_bounds {v : Nat} {p : Nat × Nat} {b : Bool} (h : InfoWrite v p b) : p.1 < sideOf v ∧ p.2 < sideOf v := by
  rcases h with h | ⟨rfl, -⟩ | h
  · exact allFmtCells_bounds (by unfold sideOf; omega) h
  · unfold darkModule sideOf; dsimp only; omega
  · exact allVerCells_bounds h

/-- What every shade write at the listed cells keeps, writing a word keeps. -/
theorem writeCells_induction {P : Matrix → Prop} {word bits : Nat} {cells : Nat → List (Nat × Nat)} {m : Matrix}
    (hstep : ∀ m p b, p ∈ (List.range bits).flatMap cells → P m → P (m.setShade p.1 p.2 (shadeOf b))) (hm : P m) :
    P (writeCells word cells bits m) := by
  refine List.foldlRecOn _ _ hm fun m hm i hi => ?_
  exact List.foldlRecOn _ _ hm fun m hm p hp => hstep m p _ (List.mem_flatMap.mpr ⟨i, hi, hp⟩) hm

/-- What every write of an information cell keeps, `writeinfo` keeps (R216). -/
theorem writeinfo_induction {P : Matrix → Prop} {v : Nat} (ec mask : Nat) {m : Matrix}
    (hstep : ∀ m p b, InfoWrite v p b → P m → P (m.setShade p.1 p.2 (shadeOf b))) (hm : P m) :
    P (writeinfo v ec mask m) := by
  have hdark := hstep _ _ true (.inr (.inl ⟨rfl, rfl⟩))
    (writeCells_induction (word := fmtword ec mask) (fun m p b hp => hstep m p b (.inl hp)) hm)
  simp only [writeinfo]
  split
  · rename_i hv
    exact writeCells_induction (fun m p b hp => hstep m p b (.inr (.inr (by rwa [allVerCells, if_pos hv])))) hdark
  · exact hdark

/-! ## Function cells through a placement -/

/-- What `MatrixOk` says of a cell apart from the shade of a data cell. -/
structure FuncCellOk (v r c : Nat) (x : MCell) : Prop where
  func_eq : x.func = (funcCell v r c).func
  assigned : x.func = true → x.shade ≠ .unset
  as_drawn : x.func = true → isInfoCell v r c = false → x = funcCell v r c

theorem FuncCellOk.of_kept {v r c : Nat} {x y : MCell} (h : FuncCellOk v r c x) (hfunc : y.func = x.func)
    (hkeep : x.func = true → y = x) : FuncCellOk v r c y where
  func_eq := hfunc.trans h.func_eq
  assigned hy := hkeep (hfunc ▸ hy) ▸ h.assigned (hfunc ▸ hy)
  as_drawn hy hi := (hkeep (hfunc ▸ hy)).trans (h.as_drawn (hfunc ▸ hy) hi)

/-- The dark module is drawn DARK, unless a version cell lies there (R196, R200). -/
theorem funcCell_darkModule {v r c : Nat} (h : (r, c) = darkModule (sideOf v)) (hi : isInfoCell v r c = false) :
    funcCell v r c = ⟨.dark, true⟩ := by
  have hs : funcShade v r c = some .dark := by
    rw [funcShade, if_neg (isInfoCell_eq_false.mp hi).2, if_pos h]
  rw [funcCell, hs]

theorem FuncCellOk.of_infoWrite {v r c : Nat} {x : MCell} {b : Bool} (h : FuncCellOk v r c x)
    (hw : InfoWrite v (r, c) b) : FuncCellOk v r c { x with shade := shadeOf b } where
  func_eq := h.func_eq
  assigned _ := shadeOf_ne_unset b
  as_drawn hx hi := by
    obtain ⟨hfmt, hver⟩ := isInfoCell_eq_false.mp hi
    rcases hw with hw | ⟨hdark, rfl⟩ | hw
    · exact absurd hw hfmt
    · rw [funcCell_darkModule hdark hi]; exact congrArg (MCell.mk .dark) hx
    · exact absurd hw hver

/-- The matrix is square and its function cells are good. -/
def FuncPlaneOk (v : Nat) (m : Matrix) : Prop :=
  Square (sideOf v) m ∧ ∀ r, r < sideOf v → ∀ c, c < sideOf v → FuncCellOk v r c (m.cell r c)

theorem matrixOk_iff {v : Nat} (hv : v ≠ 0) (placed : Bool) (m : Matrix) :
    MatrixOk v placed m ↔ FuncPlaneOk v m ∧ ∀ r, r < sideOf v → ∀ c, c < sideOf v →
      (m.cell r c).func = false → ((m.cell r c).shade = .unset ↔ placed = false) := by
  constructor
  · rintro ⟨-, h⟩
    obtain ⟨hlen, hrows, hcell⟩ := h hv
    refine ⟨⟨⟨hlen, hrows⟩, fun r hr c hc => ?_⟩, fun r hr c hc => ?_⟩
    · obtain ⟨h1, h2, h3, -⟩ := hcell r hr c hc
      exact ⟨h1, h2, h3⟩
    · exact (hcell r hr c hc).2.2.2
  · rintro ⟨⟨⟨hlen, hrows⟩, hcell⟩, hdata⟩
    refine ⟨fun e => absurd e hv, fun _ => ⟨hlen, hrows, fun r hr c hc => ?_⟩⟩
    obtain ⟨h1, h2, h3⟩ := hcell r hr c hc
    exact ⟨h1, h2, h3, hdata r hr c hc⟩

theorem funcPlaneOk_restore {v : Nat} {m : Matrix} (h : FuncPlaneOk v m) : FuncPlaneOk v (restore (sideOf v) m) := by
  refine ⟨square_restore h.1, fun r hr c hc => ?_⟩
  rw [cell_restore]
  split
  · rename_i hdata
    exact (h.2 r hr c hc).of_kept rfl fun hf => absurd hf (by simp [hdata.2.2])
  · exact h.2 r hr c hc

theorem funcPlaneOk_setShade {v : Nat} {m : Matrix} {p : Nat × Nat} {b : Bool} (hw : InfoWrite v p b)
    (h : FuncPlaneOk v m) : FuncPlaneOk v (m.setShade p.1 p.2 (shadeOf b)) := by
  obtain ⟨hp1, hp2⟩ := infoWrite_bounds hw
  refine ⟨square_setShade h.1 hp1 hp2 _, fun r hr c hc => ?_⟩
  rw [cell_setShade]
  split
  · rename_i hp
    obtain ⟨rfl, rfl⟩ := hp
    exact (h.2 _ hr _ hc).of_infoWrite hw
  · exact h.2 r hr c hc

theorem funcPlaneOk_writeinfo {v : Nat} (ec mask : Nat) {m : Matrix} (h : FuncPlaneOk v m) :
    FuncPlaneOk v (writeinfo v ec mask m) :=
  writeinfo_induction ec mask (fun _ _ _ hw hm => funcPlaneOk_setShade hw hm) h

theorem funcPlaneOk_placeBits {v : Nat} (mask : Nat) (bits : List Bool) {m : Matrix} (h : FuncPlaneOk v m) :
    FuncPlaneOk v (placeBits mask (zigzag (sideOf v)) bits m) := by
  refine ⟨square_placeBits mask (fun _ => zigzag_bounds) bits h.1, fun r hr c hc => ?_⟩
  have hcell := h.2 r hr c hc
  exact hcell.of_kept (func_placeBits ..) fun hf => placeBits_assigned _ _ _ _ _ _ (hcell.assigned hf)

theorem funcPlaneOk_placeall {v : Nat} (ec mask : Nat) (cw : List Byte) {m : Matrix} (h : FuncPlaneOk v m) :
    FuncPlaneOk v (placeall v ec mask cw m) :=
  funcPlaneOk_placeBits mask _ (funcPlaneOk_writeinfo ec mask (funcPlaneOk_restore h))

/-- A placement over a good matrix gives a good placed matrix: the walk reaches every data cell (R210 to R217). -/
theorem matrixOk_placeall {v : Nat} (hv : v ≠ 0) {placed : Bool} (ec mask : Nat) (cw : List Byte) {m : Matrix}
    (h : MatrixOk v placed m) : MatrixOk v true (placeall v ec mask cw m) := by
  have hplane := funcPlaneOk_placeall ec mask cw ((matrixOk_iff hv placed m).mp h).1
  refine (matrixOk_iff hv true _).mpr ⟨hplane, fun r hr c hc hf => ?_⟩
  have h6 : c ≠ 6 := by
    rintro rfl
    exact absurd (hf.symm.trans (hplane.2 r hr 6 hc).func_eq) (by simp [funcCell_col6 hr])
  exact iff_of_false (placeBits_visited _ _ _ _ _ _ (mem_zigzag hr hc h6)) (by simp)

end Sys2Proof.Machine
end

section
/-! PROOFS, state family (3 of 5). The invariant of the state: reset meets it and every step keeps it (O56, O57). -/

namespace Sys2Proof.Machine

/-! ## The invariant through a command -/

/-- The part of the invariant that speaks of the matrix and the registers that describe it (R36, R37, R47). -/
structure DescribesMatrix (s : State) : Prop where
  matVer_le : s.matVer.toNat ≤ 40
  valid_iff_placed : s.maskValid = s.placed
  placed_version : s.placed = true → s.matVer ≠ 0
  matrix_ok : MatrixOk s.matVer.toNat s.placed s.matrix

theorem State.Inv.describesMatrix {s : State} (h : s.Inv) : DescribesMatrix s :=
  ⟨h.matVer_le, h.valid_iff_placed, h.placed_version, h.matrix_ok⟩

theorem DescribesMatrix.congr {s t : State} (h : DescribesMatrix s) (hm : t.matrix = s.matrix)
    (hv : t.matVer = s.matVer) (hp : t.placed = s.placed) (hva : t.maskValid = s.maskValid) : DescribesMatrix t := by
  constructor
  · rw [hv]; exact h.matVer_le
  · rw [hva, hp]; exact h.valid_iff_placed
  · rw [hp, hv]; exact h.placed_version
  · rw [hv, hp, hm]; exact h.matrix_ok

theorem ne_zero_of_legalVersion {s : State} (h : legalVersion (versionOf s) = true) : s.version ≠ 0 := by
  intro e
  rw [versionOf, e] at h
  exact absurd h (by decide)

theorem versionOf_facts {s : State} (h : legalVersion (versionOf s) = true) :
    s.version ≠ 0 ∧ s.version.toNat ≠ 0 ∧ s.version.toNat ≤ 40 := by
  obtain ⟨h1, h40⟩ := (legalVersion_iff _).mp h
  unfold versionOf at *
  exact ⟨ne_zero_of_legalVersion h, by omega, h40⟩

/-- A state that holds the placed matrix of its CFG.VERSION. -/
theorem describesMatrix_of_placed {t : State} (h : legalVersion t.version.toNat = true) (hv : t.matVer = t.version)
    (hp : t.placed = true) (hva : t.maskValid = true) (hm : MatrixOk t.version.toNat true t.matrix) :
    DescribesMatrix t := by
  obtain ⟨hne, -, h40⟩ := versionOf_facts (s := t) h
  constructor
  · rw [hv]; exact h40
  · rw [hva, hp]
  · intro _; rw [hv]; exact hne
  · rw [hv, hp]; exact hm

theorem describesMatrix_minit {s t : State} (hs : DescribesMatrix s) (h : exec .minit s = .next t) :
    DescribesMatrix t := by
  simp only [exec, execMinit] at h
  split at h
  · cases h; exact hs.congr rfl rfl rfl rfl
  · rename_i hv
    cases h
    obtain ⟨-, hne, h40⟩ := versionOf_facts (s := s) (by simpa using hv)
    exact ⟨h40, rfl, nofun, matrixOk_buildfunc _ hne⟩

theorem describesMatrix_mplace {s t : State} (hs : DescribesMatrix s) (h : exec .mplace s = .next t) :
    DescribesMatrix t := by
  simp only [exec, execMplace] at h
  split at h
  · cases h; exact hs.congr rfl rfl rfl rfl
  rename_i hv
  split at h
  · cases h; exact hs.congr rfl rfl rfl rfl
  rename_i hver
  split at h
  · cases h; exact hs.congr rfl rfl rfl rfl
  · cases h
    have hlegal : legalVersion (versionOf s) = true := by simpa using (not_or.mp hv).1
    have hver : s.matVer = s.version := not_not.mp hver
    have hok := hs.matrix_ok
    rw [hver] at hok
    exact describesMatrix_of_placed hlegal hver rfl rfl
      (matrixOk_placeall (versionOf_facts hlegal).2.1 _ _ _ hok)

theorem describesMatrix_buildWith {s : State} (h : legalVersion (versionOf s) = true) (best : Nat) :
    DescribesMatrix (buildWith best s) :=
  have hne := (versionOf_facts h).2.1
  describesMatrix_of_placed h rfl rfl rfl (matrixOk_placeall hne _ _ _ (matrixOk_buildfunc _ hne))

theorem describesMatrix_mbuild {s t : State} (hs : DescribesMatrix s) (h : exec .mbuild s = .next t) :
    DescribesMatrix t := by
  simp only [exec, execMbuild] at h
  split at h
  · cases h; exact hs.congr rfl rfl rfl rfl
  rename_i hv
  have hlegal : legalVersion (versionOf s) = true := by simpa using (not_or.mp hv).1
  split at h
  · cases h; exact hs.congr rfl rfl rfl rfl
  split at h
  · cases h; exact (describesMatrix_buildWith hlegal _).congr rfl rfl rfl rfl
  · cases h; exact (describesMatrix_buildWith hlegal _).congr rfl rfl rfl rfl

theorem describesMatrix_exec {i : Instr} {s t : State} (hs : DescribesMatrix s) (h : exec i s = .next t) :
    DescribesMatrix t := by
  by_cases hw : writesMatrix i = false
  · rcases exec_next h with ⟨code, -, rfl⟩ | ⟨u, rfl, hu⟩
    · exact hs.congr rfl rfl rfl rfl
    · obtain ⟨hm, hv, hp, -, hva, -, -⟩ := hu.described hw
      exact hs.congr hm hv hp hva
  · cases i with
    | minit => exact describesMatrix_minit hs h
    | mplace => exact describesMatrix_mplace hs h
    | mbuild => exact describesMatrix_mbuild hs h
    | nop | gexp | glog | gfmul | pnorm | pmul | pmod | rsgen | rsenc | bchfmt | bchver | mscore | mpred =>
      exact absurd rfl hw

/-- With no command pending, three parts make the invariant: STATUS, memory and matrix. -/
theorem inv_of_ended {t : State} (hp : t.pend = none) (he : t.err = false ↔ t.errcode = .none) (hm : t.mem.wf)
    (hd : DescribesMatrix t) : t.Inv where
  mem_wf := hm
  errcode_iff := he
  busy_not_done h := by rw [hp] at h; cases h
  matVer_le := hd.matVer_le
  valid_iff_placed := hd.valid_iff_placed
  placed_version := hd.placed_version
  matrix_ok := hd.matrix_ok

theorem inv_exec {i : Instr} {s t : State} (hw : i.WellFormed) (hs : s.Inv) (h : exec i s = .next t) : t.Inv := by
  have hmem : t.mem.wf := by
    obtain ⟨a, l, e, hl⟩ := exec_stores hw h
    rw [e]
    exact setList_wf hs.mem_wf fun k hk => (hl k hk).1
  have hd := describesMatrix_exec hs.describesMatrix h
  rcases exec_next h with ⟨code, hcode, rfl⟩ | ⟨u, rfl, hu⟩
  · exact inv_of_ended rfl (iff_of_false nofun hcode) hmem hd
  · refine inv_of_ended rfl ?_ hmem hd
    rw [complete_err, complete_errcode, hu.err, hu.errcode]
    exact hs.errcode_iff

theorem inv_takeFault {s : State} (hs : s.Inv) {code : FaultCode} (hc : code ≠ .none) : (takeFault code s).Inv :=
  inv_of_ended rfl (iff_of_false nofun hc) hs.mem_wf (hs.describesMatrix.congr rfl rfl rfl rfl)

theorem inv_runCommand {w : Word} {s t : State} (hs : s.Inv) (h : runCommand w s = .next t) : t.Inv := by
  simp only [runCommand] at h
  split at h
  · rename_i hd; exact inv_exec (decode_wellFormed hd) hs h
  · cases h; exact inv_takeFault hs (by simp)

/-! ## The invariant through the host's accesses -/

/-- The invariant reads no other fields. -/
theorem State.Inv.congr {s t : State} (h : s.Inv) (hmem : t.mem = s.mem) (herr : t.err = s.err)
    (hcode : t.errcode = s.errcode) (hpend : t.pend = s.pend) (hdone : t.done = s.done)
    (hm : t.matrix = s.matrix) (hv : t.matVer = s.matVer) (hp : t.placed = s.placed)
    (hva : t.maskValid = s.maskValid) : t.Inv := by
  have hd := h.describesMatrix.congr hm hv hp hva
  refine ⟨?_, ?_, ?_, hd.matVer_le, hd.valid_iff_placed, hd.placed_version, hd.matrix_ok⟩
  · rw [hmem]; exact h.mem_wf
  · rw [herr, hcode]; exact h.errcode_iff
  · rw [hpend, hdone]; exact h.busy_not_done

/-- R50's values meet the invariant. -/
theorem inv_reset : State.reset.Inv where
  mem_wf := nil_wf
  errcode_iff := iff_of_true rfl rfl
  busy_not_done := nofun
  matVer_le := by decide
  valid_iff_placed := rfl
  placed_version := nofun
  matrix_ok := ⟨fun _ => rfl, fun h => absurd rfl h⟩

theorem inv_resetEvent (s : State) : (resetEvent s).Inv := inv_reset.congr rfl rfl rfl rfl rfl rfl rfl rfl rfl

theorem inv_statusWrite {s : State} (hs : s.Inv) (w : Word) : (statusWrite w s).Inv := by
  have hd : DescribesMatrix (statusWrite w s) := hs.describesMatrix.congr rfl rfl rfl rfl
  refine ⟨hs.mem_wf, ?_, fun hp => ?_, hd.matVer_le, hd.valid_iff_placed, hd.placed_version, hd.matrix_ok⟩
  · change (s.err && !w.getLsbD 2) = false ↔ (if w.getLsbD 2 then FaultCode.none else s.errcode) = .none
    cases w.getLsbD 2 with
    | false => simpa using hs.errcode_iff
    | true => simp
  · simp [statusWrite, hs.busy_not_done hp]

theorem csrTarget_ne_entry (a b : Nat) : csrTarget a ≠ .entry b := by
  unfold csrTarget
  split
  case h_12 =>
    split
    · nofun
    · split
      · nofun
      · split <;> nofun
  all_goals nofun

theorem isEntry_of_targetOf {a b : Nat} (h : targetOf a = .entry b) : isEntry b = true := by
  simp only [targetOf] at h
  split at h
  · exact absurd h (csrTarget_ne_entry a b)
  · repeat' split at h
    all_goals cases h
    assumption

/-- An idle write keeps the invariant (R63, R66, R68). -/
theorem inv_idleWrite {s : State} (hs : s.Inv) {t : Target} (ht : ∀ a, t = .entry a → isEntry a = true) (w : Word) :
    (idleWrite t w s).Inv := by
  cases t with
  | status => exact inv_statusWrite hs w
  | cmd =>
    have hd := hs.describesMatrix
    exact ⟨hs.mem_wf, hs.errcode_iff, fun _ => rfl, hd.matVer_le, hd.valid_iff_placed, hd.placed_version, hd.matrix_ok⟩
  | entry a =>
    have hd := hs.describesMatrix
    exact ⟨set_wf hs.mem_wf (ht a rfl) _, hs.errcode_iff, hs.busy_not_done, hd.matVer_le, hd.valid_iff_placed,
      hd.placed_version, hd.matrix_ok⟩
  | ctrl | cfg | dlen | cwlen | mstat | rmask | fmtw | verw | penalty | score | plen | xreg | exp | log | blk
  | align | cell | unmapped => exact hs.congr rfl rfl rfl rfl rfl rfl rfl rfl rfl

theorem inv_hostWrite {s : State} (hs : s.Inv) (a : Addr) (w : Word) : (hostWrite a w s).Inv := by
  simp only [hostWrite]
  split
  · exact hs.congr rfl rfl rfl rfl rfl rfl rfl rfl rfl
  · exact inv_idleWrite hs (fun b h => isEntry_of_targetOf h) w

theorem inv_hostAct {s : State} (hs : s.Inv) (op : BusOp) : (hostAct op s).Inv := by
  cases op with
  | idle => exact hs
  | read a =>
    obtain ⟨v, d, e⟩ := hostRead_cases a s
    rw [hostAct, e]
    exact hs.congr rfl rfl rfl rfl rfl rfl rfl rfl rfl
  | write a w => exact inv_hostWrite hs a w
  | reset => exact inv_resetEvent s

theorem inv_cycle {s t : State} {op : BusOp} (hs : s.Inv) (h : cycle op s = .next t) : t.Inv := by
  rcases cycle_cases h with ⟨-, rfl⟩ | ⟨-, ⟨-, rfl⟩ | ⟨w, -, -, hrun⟩ | ⟨w, -, -, rfl⟩⟩
  · exact inv_resetEvent s
  · exact inv_hostAct hs op
  · exact inv_runCommand (inv_hostAct hs op) hrun
  · exact (inv_hostAct hs op).congr rfl rfl rfl rfl rfl rfl rfl rfl rfl

/-- Settles O57: the host's access and the engine's turn each keep the invariant. -/
theorem stepKeepsInvariant : Obligations.StepKeepsInvariant := by
  intro s t hs h
  rw [step_eq_cycle] at h
  exact inv_cycle (s := { s with inbox := s.inbox.tail }) (hs.congr rfl rfl rfl rfl rfl rfl rfl rfl rfl) h

/-- Settles O56. -/
theorem resetMeetsInvariant : Obligations.ResetMeetsInvariant := inv_reset

end Sys2Proof.Machine
end

section
/-! PROOFS, state family (4 of 5). The clock cycle, bounded completion and the frames of the commands (O5, O7, O9, O19,
O20, O21). -/

namespace Sys2Proof.Machine

/-! ## Bounded completion -/

theorem idleWrite_inbox (t : Target) (w : Word) (s : State) : (idleWrite t w s).inbox = s.inbox := by
  cases t <;> rfl

/-- An access leaves the rest of the inbox (log 6). -/
theorem hostAct_inbox (op : BusOp) (s : State) : (hostAct op s).inbox = s.inbox := by
  cases op with
  | read a => obtain ⟨v, d, e⟩ := hostRead_cases a s; rw [hostAct, e]
  | write a w =>
    simp only [hostAct, hostWrite]
    split
    · rfl
    · exact idleWrite_inbox _ w s
  | idle | reset => rfl

/-- A step in which the host does not reset is the engine's turn after the host's access. -/
theorem step_eq_engineTurn {s : State} (h : s.inbox.headD .idle ≠ .reset) :
    step s = engineTurn s.pend s.wait (hostAct (s.inbox.headD .idle) { s with inbox := s.inbox.tail }) := by
  rw [step_eq_cycle, cycle_eq _ h]

theorem engineTurn_idle {p : Option Word} (hp : p = none) (n : Nat) (s : State) : engineTurn p n s = .next s := by
  rw [hp]; rfl

theorem engineTurn_waiting {p : Option Word} {w : Word} {n : Nat} (hp : p = some w) (hn : n ≠ 0) (s : State) :
    engineTurn p n s = .next { s with wait := n - 1 } := by
  rw [hp, engineTurn, if_neg hn]

theorem engineTurn_due {p : Option Word} {w : Word} {n : Nat} (hp : p = some w) (hn : n = 0) (s : State) :
    engineTurn p n s = runCommand w s := by
  rw [hp, engineTurn, if_pos hn]

theorem headD_ne_reset {l : List BusOp} (h : ∀ op ∈ l, op ≠ .reset) : l.headD .idle ≠ .reset := by
  cases l with
  | nil => simp
  | cons op l => exact h op List.mem_cons_self

/-- A step of a pending command that is not yet due lowers its countdown by one. -/
theorem step_waiting {s : State} {w : Word} {n : Nat} (hp : s.pend = some w) (hi : ∀ op ∈ s.inbox, op ≠ .reset)
    (hn : s.wait = n + 1) :
    ∃ t, step s = .next t ∧ t.pend = some w ∧ t.wait = n ∧ ∀ op ∈ t.inbox, op ≠ .reset := by
  have hhead := headD_ne_reset hi
  have hbusy : busy { s with inbox := s.inbox.tail } = true := by simp [busy, hp]
  refine ⟨_, (step_eq_engineTurn hhead).trans (engineTurn_waiting hp (by omega) _), ?_, ?_, fun op hop => ?_⟩
  · exact (hostAct_busy hhead hbusy).1.trans hp
  · exact Nat.sub_eq_of_eq_add hn
  · have hop : op ∈ (hostAct (s.inbox.headD .idle) { s with inbox := s.inbox.tail }).inbox := hop
    rw [hostAct_inbox] at hop
    exact hi op (List.mem_of_mem_tail hop)

/-- A step of a due command completes it. -/
theorem step_due {s : State} {w : Word} (hp : s.pend = some w) (hi : ∀ op ∈ s.inbox, op ≠ .reset) (hn : s.wait = 0) :
    ∃ t, step s = .next t ∧ t.pend = none ∧ t.done = true := by
  rw [(step_eq_engineTurn (headD_ne_reset hi)).trans (engineTurn_due hp hn _)]
  exact runCommand_ends w _

theorem run_succ {s t : State} (h : step s = .next t) (k : Nat) : core.run (k + 1) s = core.run k t := by
  have hcore : core.step s = .next t := h
  simp only [Host.Core.run, hcore]

/-- Settles O7, by induction on the cycles still to pass. -/
theorem commandCompletesWhenDue : Obligations.CommandCompletesWhenDue := by
  intro s w hp hi
  generalize hn : s.wait = n
  induction n generalizing s with
  | zero =>
    obtain ⟨t, hstep, hend⟩ := step_due hp hi hn
    refine ⟨fun k hk => ?_, t, by rw [run_succ hstep]; rfl, hend⟩
    obtain rfl : k = 0 := by omega
    exact ⟨s, rfl, hp⟩
  | succ n ih =>
    obtain ⟨u, hstep, hpu, hwait, hiu⟩ := step_waiting hp hi hn
    obtain ⟨hbusy, t, hrun, hend⟩ := ih u hpu hiu hwait
    refine ⟨fun k hk => ?_, t, by rw [run_succ hstep, hrun], hend⟩
    cases k with
    | zero => exact ⟨s, rfl, hp⟩
    | succ k =>
      rw [run_succ hstep]
      exact hbusy k (by omega)

/-- Settles O5: the three cases of the engine's turn. -/
theorem stepRunsDecodedCommand : Obligations.StepRunsDecodedCommand := by
  refine ⟨fun s => ⟨rfl, fun _ => rfl, fun _ _ => rfl⟩, fun s hs => ?_⟩
  intro accessed
  have hstep := step_eq_engineTurn hs
  refine ⟨fun hp => ?_, fun w hp => ⟨fun hn => ?_, fun hn => ?_⟩⟩
  · exact hstep.trans (engineTurn_idle hp _ _)
  · exact hstep.trans (engineTurn_waiting hp hn _)
  · have hrun : step s = runCommand w accessed := hstep.trans (engineTurn_due hp hn _)
    refine ⟨hrun, fun i hi => ?_⟩
    rw [hrun, runCommand, hi]

/-! ## Frames -/

/-- Settles O19: a fault writes no X register, success at most the command's own. -/
theorem scalarRegisterFrame : Obligations.ScalarRegisterFrame := by
  intro i s t r h hr
  rcases exec_next h with ⟨code, -, rfl⟩ | ⟨u, rfl, hu⟩
  · rfl
  · exact hu.x r hr

theorem exec_epoch {i : Instr} {s t : State} (h : exec i s = .next t) : t.epoch = s.epoch := by
  rcases exec_next h with ⟨code, -, rfl⟩ | ⟨u, rfl, hu⟩
  · rfl
  · exact hu.epoch

/-- Settles O20: a byte outside those stored reads as before. -/
theorem byteArrayFrame : Obligations.ByteArrayFrame := by
  intro i s t a hw h ha
  obtain ⟨b, l, hmem, hstored⟩ := exec_stores hw h
  have hread : readByte a t = readByte a (writeBytes b l s) :=
    readByte_congr (s := writeBytes b l s) hmem (exec_epoch (s := s) h) a
  rw [hread, readByte_writeBytes_outside]
  rintro ⟨hle, hlt⟩
  refine ha ?_
  have := (hstored (a - b) (by omega)).2
  rwa [Nat.add_sub_cancel' hle] at this

/-- Settles O21: a fault writes none of these, success only what `Writes` leaves open. -/
theorem controlFrame : Obligations.ControlFrame := by
  intro i s t h
  rcases exec_next h with ⟨code, -, rfl⟩ | ⟨u, rfl, hu⟩
  · exact ⟨⟨rfl, rfl, rfl, rfl, rfl, rfl, rfl, rfl, rfl, rfl, rfl, rfl, rfl⟩, fun _ => rfl, fun _ _ => rfl,
      fun _ => ⟨rfl, rfl, rfl, rfl, rfl, rfl, rfl⟩, fun _ => ⟨rfl, rfl⟩⟩
  · exact ⟨⟨hu.ie, hu.haz, hu.cmdRead, hu.version, hu.ec, hu.maskSel, hu.fill, hu.dlen, hu.rdata, hu.inbox, hu.wait,
      hu.draws, hu.epoch⟩, hu.cwlen, hu.plen, hu.described, hu.scores⟩

/-- Settles O9. -/
theorem resetValues : Obligations.ResetValues := by
  unfold Obligations.ResetValues
  decide

end Sys2Proof.Machine
end

section
/-! PROOFS, state family (5 of 5). The address map, the ROMs and the layout of the words (O16, O58). -/

namespace Sys2Proof.Machine

/-! ## The address map (R61) -/

theorem targetOf_csr {a : Nat} (h : a < 0x100) : targetOf a = csrTarget a := if_pos h

theorem targetOf_exp {i : Nat} (h : i < 256) : targetOf (0x100 + i) = .exp i := by
  rw [targetOf, if_neg (by omega), if_pos (by omega), Nat.add_sub_cancel_left]

theorem targetOf_log {i : Nat} (h : i < 256) : targetOf (0x200 + i) = .log i := by
  rw [targetOf, if_neg (by omega), if_neg (by omega), if_pos (by omega), Nat.add_sub_cancel_left]

theorem targetOf_blk {i : Nat} (h : i < 320) : targetOf (0x400 + i) = .blk i := by
  rw [targetOf, if_neg (by omega), if_neg (by omega), if_neg (by omega), if_pos (by omega), Nat.add_sub_cancel_left]

theorem targetOf_align {i : Nat} (h : i < 320) : targetOf (0x600 + i) = .align i := by
  rw [targetOf, if_neg (by omega), if_neg (by omega), if_neg (by omega), if_neg (by omega), if_pos (by omega),
    Nat.add_sub_cancel_left]

theorem targetOf_entry {a : Nat} (h : isEntry a = true) : targetOf a = .entry a := by
  have ha := (isEntry_iff a).mp h
  rw [targetOf, if_neg (by omega), if_neg (by omega), if_neg (by omega), if_neg (by omega), if_neg (by omega), if_pos h]

/-- Above the ROMs, an address that holds no entry is a cell's or unmapped. -/
theorem targetOf_high {a : Nat} (h : 0x740 ≤ a) (he : ¬ isEntry a = true) : targetOf a =
    if 0x10000 ≤ a ∧ a < 0x20000 ∧ (a - 0x10000) / 256 < Config.maxSide ∧ a % 256 < Config.maxSide then
      .cell ((a - 0x10000) / 256) (a % 256)
    else .unmapped := by
  rw [targetOf, if_neg (by omega), if_neg (by omega), if_neg (by omega), if_neg (by omega), if_neg (by omega), if_neg he]

theorem targetOf_cell {r c : Nat} (hr : r < 256) (hc : c < 256) :
    targetOf (cellAddr r c) = if r < 177 ∧ c < 177 then .cell r c else .unmapped := by
  have hrow : (cellAddr r c - 0x10000) / 256 = r := by unfold cellAddr; omega
  have hcol : cellAddr r c % 256 = c := by unfold cellAddr; omega
  have hlow : 0x10000 ≤ cellAddr r c ∧ cellAddr r c < 0x20000 := by unfold cellAddr; omega
  rw [targetOf_high (by omega) (by rw [isEntry_iff]; omega), hrow, hcol]
  simp only [hlow, true_and, Config.maxSide]

theorem targetOf_gap {a : Nat} (h : (0x300 ≤ a ∧ a < 0x400) ∨ (0x540 ≤ a ∧ a < 0x600) ∨ (0x740 ≤ a ∧ a < 0x1000) ∨
    (0x1400 ≤ a ∧ a < 0x2000) ∨ (0x4000 ≤ a ∧ a < 0x10000)) : targetOf a = .unmapped := by
  have he : ¬ isEntry a = true := by rw [isEntry_iff]; omega
  rw [targetOf, if_neg (by omega), if_neg (by omega), if_neg (by omega), if_neg (by omega), if_neg (by omega), if_neg he,
    if_neg (by omega)]

/-! ## The ROMs -/

set_option maxRecDepth 4000 in
theorem expRom_succ : ∀ i < 255, expRom.getD (i + 1) 0 = xtime (expRom.getD i 0) := by decide

/-- The EXP ROM follows the recurrence of R110. -/
theorem expRom_eq_alphaPow {i : Nat} (h : i < 256) : expRom.getD i 0 = alphaPow i := by
  induction i with
  | zero => rfl
  | succ i ih => rw [expRom_succ i (by omega), ih (by omega), alphaPow]

set_option maxRecDepth 4000 in
theorem logOf_expRom : ∀ i < 255, logOf (expRom.getD i 0) = i := by decide

set_option maxRecDepth 4000 in
/-- Each field of a group fits the byte its ROM word gives it (R42). -/
theorem blockTable_bytes : ∀ row ∈ blockTable, ∀ g ∈ row, g.count < 256 ∧ g.total < 256 ∧ g.data < 256 := by decide

theorem alignPositions_facts : ∀ v < 41, 1 ≤ v → (alignPositions v).Pairwise (· < ·) ∧ (alignPositions v).length < 8 ∧
    (v = 1 → alignPositions v = []) ∧
    (2 ≤ v → (alignPositions v).head? = some 6 ∧ (alignPositions v).getLast? = some (sideOf v - 7)) := by decide

/-! ## Words by their fields -/

/-- Fields side by side, as a sum. -/
theorem toNat_append_eq_add {m n : Nat} (x : BitVec m) (y : BitVec n) : (x ++ y).toNat = x.toNat * 2 ^ n + y.toNat := by
  rw [BitVec.toNat_append, ← Nat.shiftLeft_add_eq_or_of_lt y.isLt, Nat.shiftLeft_eq]

/-- A register read as a 32-bit word, its upper bits 0. -/
theorem setWidth_eq_zero_append {m n : Nat} (x : BitVec n) : x.setWidth (m + n) = 0#m ++ x := by
  apply BitVec.eq_of_toNat_eq
  rw [BitVec.toNat_setWidth, toNat_append_eq_add, BitVec.toNat_ofNat, Nat.zero_mod, Nat.zero_mul, Nat.zero_add]
  exact Nat.mod_eq_of_lt (x.isLt.trans_le (Nat.pow_le_pow_right (by decide) (Nat.le_add_left n m)))

theorem ofNat_three_bytes {c t d : Nat} (hc : c < 256) (ht : t < 256) (hd : d < 256) :
    BitVec.ofNat 32 (c + 256 * t + 65536 * d) = 0#8 ++ BitVec.ofNat 8 d ++ BitVec.ofNat 8 t ++ BitVec.ofNat 8 c := by
  apply BitVec.eq_of_toNat_eq
  simp only [toNat_append_eq_add, BitVec.toNat_ofNat]
  omega

theorem blockRow_mem {v ec : Nat} (hv : v ≤ 40) (hec : ec < 4) : blockRow v ec ∈ blockTable := by
  have hlen : blockTable.length = 160 := rfl
  have hi : (v - 1) * 4 + ec < blockTable.length := by omega
  rw [blockRow, List.getD_eq_getElem _ _ hi]
  exact List.getElem_mem hi

/-- The BLK ROM word of a group: count, total and data from bit 0 on (R42). -/
theorem blkWord_eq {v ec g : Nat} (hv : v ≤ 40) (hec : ec < 4) (hg : g < 2) :
    blkWord (2 * ((v - 1) * 4 + ec) + g) =
      match (blockRow v ec)[g]? with
      | some x => 0#8 ++ BitVec.ofNat 8 x.data ++ BitVec.ofNat 8 x.total ++ BitVec.ofNat 8 x.count
      | none => 0 := by
  have hrow : (2 * ((v - 1) * 4 + ec) + g) / 2 = (v - 1) * 4 + ec := by omega
  have hcol : (2 * ((v - 1) * 4 + ec) + g) % 2 = g := by omega
  unfold blkWord
  rw [hrow, hcol, ← blockRow]
  cases hx : (blockRow v ec)[g]? with
  | none => rfl
  | some x =>
    obtain ⟨hc, ht, hd⟩ := blockTable_bytes _ (blockRow_mem hv hec) x (List.mem_of_getElem? hx)
    exact ofNat_three_bytes hc ht hd

/-- Settles O16. -/
theorem addressMapAndRoms : Obligations.AddressMapAndRoms := by
  refine ⟨fun s i h => ?_, fun s i h => ?_, fun s => ?_, fun s v ec g _ hv hec hg => ?_, fun s v i h1 hv hi => ?_,
    fun v h1 hv => alignPositions_facts v (by omega) h1, fun p i h => targetOf_entry (isEntry_pr p h), fun k h => ?_,
    fun r c hr hc => targetOf_cell hr hc, fun a h => targetOf_gap h⟩
  · rw [targetOf_exp h]
    exact congrArg (BitVec.setWidth 32) (expRom_eq_alphaPow h)
  · rw [targetOf_log (alphaPow i).isLt, ← expRom_eq_alphaPow (by omega)]
    exact congrArg (BitVec.ofNat 32) (logOf_expRom i h)
  · rw [targetOf_log (i := 0) (by decide)]; rfl
  · rw [Nat.add_assoc, targetOf_blk (by omega)]
    exact blkWord_eq hv hec hg
  · have hrow : (8 * (v - 1) + i) / 8 = v - 1 := by omega
    have hcol : (8 * (v - 1) + i) % 8 = i := by omega
    rw [Nat.add_assoc, targetOf_align (by omega), wordAt, alignWord, hrow, hcol, alignPositions]
  · exact ⟨targetOf_entry ((isEntry_iff _).mpr (by unfold dataBase; omega)), targetOf_entry (isEntry_cw h)⟩

/-! ## The layout of the control and status words (R28 to R39, R47) -/

theorem csrTarget_gap {a : Nat} (h : 0x00A < a) (hscore : a < 0x010 ∨ 0x01B < a) (hx : a < 0x020 ∨ 0x027 < a) :
    csrTarget a = .unmapped := by
  have h1 : ¬ (0x010 ≤ a ∧ a < 0x018) := by omega
  have h2 : ¬ (0x018 ≤ a ∧ a < 0x01C) := by omega
  have h3 : ¬ (0x020 ≤ a ∧ a < 0x028) := by omega
  unfold csrTarget
  split
  case h_12 => rw [if_neg h1, if_neg h2, if_neg h3]
  all_goals exact absurd h (by decide)

theorem ofNat_bool (b : Bool) : BitVec.ofNat 32 b.toNat = 0#31 ++ BitVec.ofBool b := by
  cases b <;> rfl

theorem FaultCode.num_lt (c : FaultCode) : c.num < 16 := by cases c <;> decide

theorem statusWord_eq (s : State) : statusWord s = 0#20 ++ BitVec.ofNat 4 s.errcode.num ++ 0#4 ++
    BitVec.ofBool s.haz ++ BitVec.ofBool s.err ++ BitVec.ofBool s.done ++ BitVec.ofBool s.pend.isSome := by
  have hbusy := s.pend.isSome.toNat_lt
  have hdone := s.done.toNat_lt
  have herr := s.err.toNat_lt
  have hhaz := s.haz.toNat_lt
  have hcode := s.errcode.num_lt
  apply BitVec.eq_of_toNat_eq
  simp only [statusWord, busy, toNat_append_eq_add, BitVec.toNat_ofNat, BitVec.toNat_ofBool]
  omega

theorem cfgWord_eq (s : State) : cfgWord s = 0#19 ++ BitVec.ofBool s.fill ++ s.maskSel ++ s.ec ++ s.version := by
  have hfill := s.fill.toNat_lt
  apply BitVec.eq_of_toNat_eq
  simp only [cfgWord, toNat_append_eq_add, BitVec.toNat_ofNat, BitVec.toNat_ofBool]
  omega

theorem mstatWord_eq (s : State) : mstatWord s = 0#23 ++ BitVec.ofBool s.placed ++ 0#2 ++ s.matVer := by
  have hplaced := s.placed.toNat_lt
  apply BitVec.eq_of_toNat_eq
  simp only [mstatWord, toNat_append_eq_add, BitVec.toNat_ofNat, BitVec.toNat_ofBool]
  omega

theorem rmaskWord_eq (s : State) : rmaskWord s = 0#23 ++ BitVec.ofBool s.maskValid ++ 0#5 ++ s.maskUsed := by
  have hvalid := s.maskValid.toNat_lt
  apply BitVec.eq_of_toNat_eq
  simp only [rmaskWord, toNat_append_eq_add, BitVec.toNat_ofNat, BitVec.toNat_ofBool]
  omega

/-- The word of a cell that holds `x` (R47). -/
theorem ofNat_cell (x : MCell) : BitVec.ofNat 32 (x.shade.num + 4 * x.func.toNat) = 0#29 ++ BitVec.ofBool x.func ++
    (match x.shade with | .unset => 0#2 | .light => 1#2 | .dark => 2#2) := by
  obtain ⟨shade, func⟩ := x
  cases shade <;> cases func <;> rfl

theorem cellWord_lt (r c : Nat) (s : State) : (cellWord r c s).toNat < 8 := by
  unfold cellWord
  split
  · rw [BitVec.toNat_ofNat]; omega
  · generalize s.matrix.cell r c = x
    obtain ⟨shade, func⟩ := x
    cases shade <;> cases func <;> decide

theorem cellWord_eq (r c : Nat) {s : State} (h : s.matVer ≠ 0) : cellWord r c s =
    BitVec.ofNat 32 ((s.matrix.cell r c).shade.num + 4 * (s.matrix.cell r c).func.toNat) := if_neg h

/-- Settles O58. -/
theorem specialRegisterWords : Obligations.SpecialRegisterWords := by
  have hscore : ∀ k : Fin 8, targetOf (0x010 + k.val) = .score k := by decide
  have hplen : ∀ p : Fin 4, targetOf (0x018 + p.val) = .plen p := by decide
  have hx : ∀ r : Fin 8, targetOf (0x020 + r.val) = .xreg r := by decide
  refine ⟨fun s => ⟨ofNat_bool s.ie, statusWord_eq s, rfl, cfgWord_eq s, setWidth_eq_zero_append s.dlen,
    setWidth_eq_zero_append s.cwlen, mstatWord_eq s, rmaskWord_eq s, setWidth_eq_zero_append s.fmtw,
    setWidth_eq_zero_append s.verw, rfl, fun k => ?_, fun p => ?_, fun r => ?_, fun r c hr hc => ?_⟩, rfl,
    fun a h h100 hs hgap => ?_⟩
  · rw [hscore]; rfl
  · rw [hplen]; exact setWidth_eq_zero_append (s.plen.get p)
  · rw [hx]; rfl
  · rw [targetOf_cell (by omega) (by omega), if_pos ⟨hr, hc⟩]
    exact ⟨cellWord_lt r c s, fun hv => (cellWord_eq r c hv).trans (ofNat_cell _)⟩
  · rw [targetOf_csr h100, csrTarget_gap h hs hgap]

end Sys2Proof.Machine
end

section
/-! PROOFS, memory family. The host's accesses: what each reads, stores and leaves unchanged, idle and busy (O10 to
O15). -/

namespace Sys2Proof.Machine

/-! ## One address for each word (R28, R61) -/

/-- The address of the word a target names; an unmapped one has none, and 0 stands in for it. -/
def Target.addr : Target → Nat
  | .ctrl => 0x000
  | .status => 0x001
  | .cmd => 0x002
  | .cfg => 0x003
  | .dlen => 0x004
  | .cwlen => 0x005
  | .mstat => 0x006
  | .rmask => 0x007
  | .fmtw => 0x008
  | .verw => 0x009
  | .penalty => 0x00A
  | .score k => 0x010 + k.val
  | .plen p => 0x018 + p.val
  | .xreg r => 0x020 + r.val
  | .exp i => 0x100 + i
  | .log i => 0x200 + i
  | .blk i => 0x400 + i
  | .align i => 0x600 + i
  | .entry a => a
  | .cell r c => cellAddr r c
  | .unmapped => 0

theorem addr_csrTarget {a : Nat} (h : csrTarget a ≠ .unmapped) : (csrTarget a).addr = a := by
  revert h
  unfold csrTarget
  split
  case h_12 =>
    repeat' split
    all_goals intro h
    all_goals simp only [Target.addr, Fin.ofNat]
    any_goals omega
    exact absurd rfl h
  all_goals exact fun _ => rfl

theorem addr_targetOf {a : Nat} (h : targetOf a ≠ .unmapped) : (targetOf a).addr = a := by
  by_cases hcsr : a < 0x100
  · rw [targetOf_csr hcsr] at h ⊢
    exact addr_csrTarget h
  · revert h
    rw [targetOf, if_neg hcsr]
    repeat' split
    all_goals intro h
    all_goals simp only [Target.addr, cellAddr]
    any_goals omega
    exact absurd rfl h

/-- Two addresses never name the same mapped word. -/
theorem targetOf_ne {a b : Addr} (hne : b ≠ a) (ha : targetOf a.toNat ≠ .unmapped) :
    targetOf b.toNat ≠ targetOf a.toNat := by
  intro e
  have hb : targetOf b.toNat ≠ .unmapped := e ▸ ha
  exact hne (BitVec.eq_of_toNat_eq (by rw [← addr_targetOf hb, e, addr_targetOf ha]))

theorem targetOf_ne_cmd {a : Addr} (h : a ≠ 0x002) : targetOf a.toNat ≠ .cmd :=
  fun e => h (BitVec.eq_of_toNat_eq (targetOf_eq_cmd.mp e))

theorem targetOf_ne_status {a : Addr} (h : a ≠ 0x001) : targetOf a.toNat ≠ .status :=
  fun e => h (BitVec.eq_of_toNat_eq (targetOf_eq_status.mp e))

/-- The words R67 lets the host poll, by their addresses. -/
theorem stable_targetOf {a : Addr} (h : a = 0x000 ∨ a = 0x001 ∨ a = 0x002 ∨ (0x100 ≤ a.toNat ∧ a.toNat < 0x300) ∨
    (0x400 ≤ a.toNat ∧ a.toNat < 0x540) ∨ (0x600 ≤ a.toNat ∧ a.toNat < 0x740) ∨ targetOf a.toNat = .unmapped) :
    (targetOf a.toNat).stable = true := by
  rcases h with rfl | rfl | rfl | ⟨hle, hlt⟩ | ⟨hle, hlt⟩ | ⟨hle, hlt⟩ | h
  · rfl
  · rfl
  · rfl
  · by_cases hexp : a.toNat < 0x200
    · rw [← Nat.add_sub_of_le hle, targetOf_exp (by omega)]; rfl
    · rw [← Nat.add_sub_of_le (Nat.le_of_not_lt hexp), targetOf_log (by omega)]; rfl
  · rw [← Nat.add_sub_of_le hle, targetOf_blk (by omega)]; rfl
  · rw [← Nat.add_sub_of_le hle, targetOf_align (by omega)]; rfl
  · rw [h]; rfl

/-! ## Reads -/

theorem wordAt_hostRead (t : Target) (a : Addr) (s : State) : wordAt t (hostRead a s) = wordAt t s := by
  obtain ⟨v, d, e⟩ := hostRead_cases a s
  rw [e]
  cases t <;> rfl

theorem hostRead_rdata {s : State} (h : s.pend = none) (a : Addr) :
    (hostRead a s).rdata = wordAt (targetOf a.toNat) s := by
  rw [hostRead_defined (.inl h)]

theorem statusWord_busy {s : State} (h : s.pend ≠ none) : (statusWord s).getLsbD 0 = true := by
  have hbusy : s.pend.isSome = true := Option.isSome_iff_ne_none.mpr h
  rw [statusWord_eq, hbusy, BitVec.getLsbD_append]
  rfl

/-! ## Writes of one word, the engine idle -/

theorem idleWrite_pend {t : Target} (h : t ≠ .cmd) (w : Word) (s : State) : (idleWrite t w s).pend = s.pend := by
  cases t with
  | cmd => exact absurd rfl h
  | _ => rfl

theorem idleWrite_of_not_stored {t : Target} (h : storedBits t = none) (hs : t ≠ .status) (hc : t ≠ .cmd) (w : Word)
    (s : State) : idleWrite t w s = s := by
  cases t with
  | status => exact absurd rfl hs
  | cmd => exact absurd rfl hc
  | ctrl | cfg | dlen | cwlen | plen | xreg | entry => cases h
  | _ => rfl

theorem idleWrite_idleWrite {t : Target} (h : t ≠ .cmd) (w : Word) (s : State) :
    idleWrite t w (idleWrite t w s) = idleWrite t w s := by
  cases t with
  | cmd => exact absurd rfl h
  | status => simp +contextual [idleWrite, statusWrite]
  | plen p => simp [idleWrite, setPlen]
  | xreg r => simp [idleWrite, setX]
  | entry a => simp [idleWrite, writeBytes, Memory.setList, set_set]
  | _ => rfl

/-- A register of `n` bits reads back as the low `n` bits of the word written (R63). -/
theorem setWidth_setWidth_eq_and {n : Nat} (h : n ≤ 32) (w : Word) :
    (w.setWidth n).setWidth 32 = w &&& BitVec.ofNat 32 (2 ^ n - 1) := by
  have hpow : 2 ^ n ≤ 2 ^ 32 := Nat.pow_le_pow_right (by decide) h
  apply BitVec.eq_of_toNat_eq
  rw [BitVec.toNat_setWidth, BitVec.toNat_setWidth, BitVec.toNat_and, BitVec.toNat_ofNat,
    Nat.mod_eq_of_lt (a := 2 ^ n - 1) (by omega), Nat.and_two_pow_sub_one_eq_mod]
  exact Nat.mod_eq_of_lt ((Nat.mod_lt _ (Nat.two_pow_pos n)).trans_le hpow)

theorem ofNat_getLsbD_zero (w : Word) : BitVec.ofNat 32 (w.getLsbD 0).toNat = (w.setWidth 1).setWidth 32 := by
  apply BitVec.eq_of_toNat_eq
  simp only [BitVec.toNat_ofNat, BitVec.toNat_setWidth, BitVec.getLsbD, Nat.toNat_testBit]
  omega

/-- The fields of CFG are its 13 low bits, side by side (R32). -/
theorem cfgWord_idleWrite (w : Word) (s : State) : cfgWord (idleWrite .cfg w s) = (w.setWidth 13).setWidth 32 := by
  apply BitVec.eq_of_toNat_eq
  simp only [cfgWord, idleWrite, BitVec.toNat_ofNat, BitVec.toNat_setWidth, BitVec.extractLsb'_toNat, BitVec.getLsbD,
    Nat.toNat_testBit, Nat.shiftRight_eq_div_pow]
  omega

theorem readByte_writeBytes_self (a : Nat) (b : Byte) (s : State) : readByte a (writeBytes a [b] s) = b := by
  simp [readByte_writeBytes]

theorem wordAt_idleWrite_self {t : Target} {bits : Word} (h : storedBits t = some bits) (w : Word) (s : State) :
    wordAt t (idleWrite t w s) = w &&& bits := by
  cases t with
  | ctrl => cases h; exact (ofNat_getLsbD_zero w).trans (setWidth_setWidth_eq_and (by decide) w)
  | cfg => cases h; exact (cfgWord_idleWrite w s).trans (setWidth_setWidth_eq_and (by decide) w)
  | dlen | cwlen => cases h; exact setWidth_setWidth_eq_and (by decide) w
  | plen p =>
    cases h
    simp only [wordAt, idleWrite, setPlen_plen, get_set_self, BitVec.ofNat_toNat]
    exact setWidth_setWidth_eq_and (by decide) w
  | xreg r =>
    cases h
    simp only [wordAt, idleWrite, readX, setX_x, get_set_self]
    exact BitVec.and_allOnes.symm
  | entry a =>
    cases h
    simp only [wordAt, idleWrite, readByte_writeBytes_self]
    exact setWidth_setWidth_eq_and (by decide) w
  | _ => cases h

/-- Every other word is read from what the write leaves (R63). -/
theorem wordAt_idleWrite_ne {t u : Target} (h : storedBits t ≠ none) (hne : u ≠ t) (w : Word) (s : State) :
    wordAt u (idleWrite t w s) = wordAt u s := by
  cases t with
  | ctrl | cfg | dlen | cwlen =>
    cases u
    any_goals rfl
    exact absurd rfl hne
  | plen p =>
    cases u with
    | plen q => exact congrArg (BitVec.setWidth 32) (get_set_ne _ _ _ _ fun e => hne (congrArg _ e.symm))
    | _ => rfl
  | xreg r =>
    cases u with
    | xreg q => exact get_set_ne _ _ _ _ fun e => hne (congrArg _ e.symm)
    | _ => rfl
  | entry a =>
    cases u with
    | entry b =>
      refine congrArg (BitVec.setWidth 32) (readByte_writeBytes_outside s fun ⟨hle, hlt⟩ => hne ?_)
      rw [List.length_singleton] at hlt
      exact congrArg _ (by omega)
    | _ => rfl
  | _ => exact absurd rfl h

/-! ## The obligations on the host's accesses -/

/-- Settles O14: the word written reads back its stored bits, and any other address names another word. -/
theorem readBackAfterWrite : Obligations.ReadBackAfterWrite := by
  intro s a hp
  refine ⟨hostRead_defined (.inl hp), fun w bits hbits => ?_⟩
  have hcmd : targetOf a.toNat ≠ .cmd := fun e => by rw [e] at hbits; cases hbits
  have hmapped : targetOf a.toNat ≠ .unmapped := fun e => by rw [e] at hbits; cases hbits
  have hpend : (idleWrite (targetOf a.toNat) w s).pend = none := (idleWrite_pend hcmd w s).trans hp
  rw [hostWrite_idle hp]
  refine ⟨hpend, ?_, fun b hb => ?_⟩
  · rw [hostRead_rdata hpend, wordAt_idleWrite_self hbits]
  · rw [hostRead_rdata hpend, hostRead_rdata hp,
      wordAt_idleWrite_ne (by rw [hbits]; exact Option.some_ne_none bits) (targetOf_ne hb hmapped)]

/-- Settles O15. -/
theorem readOnlyWordsIgnoreWrites : Obligations.ReadOnlyWordsIgnoreWrites := by
  refine ⟨fun s a w hp hbits h1 h2 => ?_, fun s a h => ?_⟩
  · rw [hostWrite_idle hp, idleWrite_of_not_stored hbits (targetOf_ne_status h1) (targetOf_ne_cmd h2)]
  · rw [hostRead_defined (.inr (by rw [h]; rfl)), h]
    rfl

/-- A repeated write changes nothing more: idle by its word, busy as a write of CTRL or a dropped one (R64, R67). -/
theorem hostWrite_hostWrite {a : Addr} (h1 : a ≠ 0x001) (h2 : a ≠ 0x002) (w : Word) (s : State) :
    hostWrite a w (hostWrite a w s) = hostWrite a w s := by
  by_cases hp : s.pend = none
  · have hcmd := targetOf_ne_cmd h2
    rw [hostWrite_idle hp, hostWrite_idle ((idleWrite_pend hcmd w s).trans hp), idleWrite_idleWrite hcmd]
  · by_cases h0 : a = 0x000
    · subst h0
      rw [hostWrite_ctrl, hostWrite_ctrl]
    · have hagain : ({ s with haz := true } : State).pend ≠ none := hp
      rw [hostWrite_dropped hp h0 h1, hostWrite_dropped hagain h0 h1]

/-- Settles O13. -/
theorem readsHaveNoSideEffects : Obligations.ReadsHaveNoSideEffects := by
  refine ⟨fun s a t => wordAt_hostRead t a s, fun s a b hp => ?_, fun s a w h1 h2 => hostWrite_hostWrite h1 h2 w s⟩
  have hlater : (hostRead b (hostRead a s)).pend = none := by rw [hostRead_pend, hostRead_pend, hp]
  rw [hostRead_rdata hlater, hostRead_rdata hp, wordAt_hostRead, wordAt_hostRead]

/-- Settles O10: CMD is word 2. -/
theorem commandIssue : Obligations.CommandIssue := by
  intro s w
  refine ⟨fun hp => ⟨Config.extraLatency s.draws w, s.draws + 1, ?_⟩, fun hp => hostWrite_dropped hp (by decide) (by decide) w⟩
  have hcmd : targetOf (0x002 : Addr).toNat = .cmd := targetOf_eq_cmd.mpr rfl
  rw [hostWrite_idle hp, hcmd]
  rfl

/-- Settles O11. -/
theorem busyRules : Obligations.BusyRules := by
  intro s a w hp
  refine ⟨hostWrite_ctrl s w, hostWrite_status s w, fun h0 h1 => hostWrite_dropped hp h0 h1 w,
    fun h => hostRead_defined (.inr (stable_targetOf h)), ?_, hostRead_cases a s⟩
  rw [hostRead_defined (a := 0x001) (.inr rfl)]
  exact statusWord_busy hp

/-- A flag is cleared where its bit is written as 1, and kept elsewhere (R68). -/
theorem statusWrite_eq_ite (w : Word) (s : State) : statusWrite w s =
    { s with
      done := if w.getLsbD 1 then false else s.done
      err := if w.getLsbD 2 then false else s.err
      errcode := if w.getLsbD 2 then .none else s.errcode
      haz := if w.getLsbD 3 then false else s.haz } := by
  have hclear : ∀ flag bit : Bool, (flag && !bit) = if bit then false else flag := by decide
  simp only [statusWrite, hclear]

theorem getLsbD_of_extract_eq_zero {w : Word} (h : w.extractLsb' 1 3 = 0) {i : Nat} (hi : i < 3) :
    w.getLsbD (1 + i) = false := by
  have hbit : (w.extractLsb' 1 3).getLsbD i = w.getLsbD (1 + i) := by simp [hi]
  rw [← hbit, h, BitVec.ofNat_eq_ofNat, BitVec.getLsbD_zero]

/-- What a completion does to the flags: DONE rises, HAZ stays, and ERR and ERRCODE stay or report a fault (R262,
R263). -/
theorem runCommand_flags (c : Word) (s : State) : ∃ t, runCommand c s = .next t ∧ t.done = true ∧ t.haz = s.haz ∧
    ((t.err = true ∧ t.errcode ≠ .none) ∨ (t.err = s.err ∧ t.errcode = s.errcode)) := by
  unfold runCommand
  split
  · rcases exec_ends _ s with ⟨code, hcode, e⟩ | ⟨u, e, hu⟩
    · exact ⟨_, e, rfl, rfl, .inl ⟨rfl, hcode⟩⟩
    · exact ⟨_, e, rfl, hu.haz, .inr ⟨hu.err, hu.errcode⟩⟩
  · exact ⟨_, rfl, rfl, rfl, .inl ⟨rfl, nofun⟩⟩

/-- Settles O12: the due command runs on the state the write of STATUS leaves. -/
theorem statusWriteClears : Obligations.StatusWriteClears := by
  refine ⟨fun s w => (hostWrite_status s w).trans (statusWrite_eq_ite w s), fun s w h => ?_,
    fun s c w rest hp hn hi => ?_⟩
  · rw [hostWrite_status, statusWrite_eq_ite, getLsbD_of_extract_eq_zero h (i := 0) (by decide),
      getLsbD_of_extract_eq_zero h (i := 1) (by decide), getLsbD_of_extract_eq_zero h (i := 2) (by decide)]
    rfl
  · have hrun : step s = runCommand c (statusWrite w { s with inbox := rest }) := by
      rw [step_eq_engineTurn (by rw [hi]; nofun), engineTurn_due hp hn, hi]
      exact congrArg (runCommand c) (hostWrite_status _ w)
    rw [hrun, statusWrite_eq_ite]
    exact ⟨rfl, runCommand_flags c _⟩

end Sys2Proof.Machine
end

section
/-! PROOFS, encoding family. The decoder reads fields: a word is a command exactly when its opcode, its operand fields
and its zero fields are those of the command's format. The two directions of the round trip (O1, O2) and the rows of the
opcode table (O3, O6) follow. -/

namespace Sys2Proof.Encoding

open Sys2Proof.Machine Sys2Proof.Laws.EncodedOpcode

/-! ## What the decoder reads -/

/-- The fields that must be 0 in a command's row: lowest bit and length (R96, R98). -/
def zerosOf : Instr → List (Nat × Nat)
  | .nop | .rsenc | .minit | .mplace | .mbuild => [(0, 26)]
  | .gexp .. | .glog .. | .pmul .. | .pmod .. | .bchfmt .. | .bchver .. => [(0, 20)]
  | .gfmul .. => [(0, 17)]
  | .pnorm .. => [(0, 12), (20, 2)]
  | .rsgen .. => [(0, 12), (20, 4)]
  | .mscore .. => [(0, 23)]
  | .mpred .. => [(0, 14)]

/-- The command of the same row whose operands are those of `w` (R95). -/
def withOperandsOf (w : Word) : Instr → Instr
  | .nop => .nop
  | .gexp .. => .gexp (xField w 23) (xField w 20)
  | .glog .. => .glog (xField w 23) (xField w 20)
  | .gfmul .. => .gfmul (xField w 23) (xField w 20) (xField w 17)
  | .pnorm .. => .pnorm (pField w 24) (pField w 22) (field w 12 8)
  | .pmul .. => .pmul (pField w 24) (pField w 22) (pField w 20)
  | .pmod .. => .pmod (pField w 24) (pField w 22) (pField w 20)
  | .rsgen .. => .rsgen (pField w 24) (field w 12 8)
  | .rsenc => .rsenc
  | .bchfmt .. => .bchfmt (xField w 23) (xField w 20)
  | .bchver .. => .bchver (xField w 23) (xField w 20)
  | .minit => .minit
  | .mplace => .mplace
  | .mscore .. => .mscore (xField w 23)
  | .mbuild => .mbuild
  | .mpred .. => .mpred (xField w 23) (xField w 20) (xField w 17) (field w 14 3)

theorem rowOf_withOperandsOf (w : Word) (i : Instr) : rowOf (withOperandsOf w i) = rowOf i := by cases i <;> rfl

theorem strict_eq_ok_iff {w : Word} {zeros : List (Nat × Nat)} {i j : Instr} :
    strict w zeros i = .ok j ↔ (∀ z ∈ zeros, field w z.1 z.2 = 0) ∧ i = j := by
  simp only [strict, List.all_eq_true, decide_eq_true_eq]
  split
  next hz => exact ⟨fun h => ⟨hz, Except.ok.inj h⟩, fun ⟨_, h⟩ => congrArg _ h⟩
  next hz => exact ⟨nofun, fun ⟨h, _⟩ => absurd h hz⟩

/-- The decoder's arm for an opcode. -/
theorem decode_of_opcode {w : Word} {i : Instr} (h : opcodeOf w = opcodeNumber i) :
    decode w = strict w (zerosOf i) (withOperandsOf w i) := by
  cases i <;> simp only [decode, h, opcodeNumber] <;> rfl

theorem opcodeOf_of_decode {w : Word} {i : Instr} (h : decode w = .ok i) : opcodeOf w = opcodeNumber i := by
  simp only [decode] at h
  split at h
  case h_17 => cases h
  all_goals
    rename_i hop
    rw [strict_eq_ok h]
    exact hop

/-- R95, R96, R98: the opcode of `i`, its zero fields 0 and its operands in their fields. -/
theorem decode_eq_ok_iff {w : Word} {i : Instr} : decode w = .ok i ↔
    opcodeOf w = opcodeNumber i ∧ (∀ z ∈ zerosOf i, field w z.1 z.2 = 0) ∧ withOperandsOf w i = i := by
  constructor
  · intro h
    have hop := opcodeOf_of_decode h
    rw [decode_of_opcode hop] at h
    exact ⟨hop, strict_eq_ok_iff.mp h⟩
  · rintro ⟨hop, h⟩
    rw [decode_of_opcode hop]
    exact strict_eq_ok_iff.mpr h

/-! ## Words as fields side by side -/

/-- The bits a list of fields takes; a field is its length and its value. -/
def width : List (Nat × Nat) → Nat
  | [] => 0
  | (len, _) :: fs => len + width fs

/-- Fields side by side, the last one at bit 0. -/
def pack : List (Nat × Nat) → Nat
  | [] => 0
  | (_, v) :: fs => v * 2 ^ width fs + pack fs

/-- The low bits of `w` are these fields, the last one at bit 0. -/
def Holds (w : Word) : List (Nat × Nat) → Prop
  | [] => True
  | (len, v) :: fs => field w (width fs) len = v ∧ Holds w fs

/-- Every value fits its field. -/
def Fits (fs : List (Nat × Nat)) : Prop := ∀ f ∈ fs, f.2 < 2 ^ f.1

theorem fits_cons {len v : Nat} {fs : List (Nat × Nat)} : Fits ((len, v) :: fs) ↔ v < 2 ^ len ∧ Fits fs :=
  List.forall_mem_cons

theorem pack_lt {fs : List (Nat × Nat)} (h : Fits fs) : pack fs < 2 ^ width fs := by
  induction fs with
  | nil => exact Nat.one_pos
  | cons f fs ih =>
    obtain ⟨hv, hfs⟩ := fits_cons.mp h
    calc f.2 * 2 ^ width fs + pack fs < f.2 * 2 ^ width fs + 2 ^ width fs := by have := ih hfs; omega
      _ = (f.2 + 1) * 2 ^ width fs := by ring
      _ ≤ 2 ^ f.1 * 2 ^ width fs := Nat.mul_le_mul_right _ hv
      _ = 2 ^ width (f :: fs) := (Nat.pow_add ..).symm

/-- The fields of a word determine it and their own ranges. -/
theorem holds_iff {w : Word} {fs : List (Nat × Nat)} :
    Holds w fs ↔ Fits fs ∧ w.toNat % 2 ^ width fs = pack fs := by
  induction fs with
  | nil => simp [Holds, Fits, width, pack, Nat.mod_one]
  | cons f fs ih =>
    obtain ⟨len, v⟩ := f
    have hdiv : w.toNat % 2 ^ (len + width fs) / 2 ^ width fs = field w (width fs) len := by
      rw [Nat.add_comm, Nat.pow_add, Nat.mod_mul_right_div_self]; rfl
    have hmod : w.toNat % 2 ^ (len + width fs) % 2 ^ width fs = w.toNat % 2 ^ width fs :=
      Nat.mod_mod_of_dvd _ (Nat.pow_dvd_pow 2 (Nat.le_add_left ..))
    have huniq : field w (width fs) len = v ∧ w.toNat % 2 ^ width fs = pack fs ↔
        pack fs + 2 ^ width fs * v = w.toNat % 2 ^ (len + width fs) ∧ pack fs < 2 ^ width fs := by
      rw [← hdiv, ← hmod, Nat.div_mod_unique (Nat.two_pow_pos _)]
    have hpack : pack ((len, v) :: fs) = pack fs + 2 ^ width fs * v := by rw [pack]; ring
    rw [Holds, ih, fits_cons, width, hpack]
    constructor
    · rintro ⟨hv, hfs, hw⟩
      exact ⟨⟨hv ▸ field_lt .., hfs⟩, (huniq.mp ⟨hv, hw⟩).1.symm⟩
    · rintro ⟨⟨-, hfs⟩, hw⟩
      obtain ⟨hv, hlow⟩ := huniq.mpr ⟨hw.symm, pack_lt hfs⟩
      exact ⟨hv, hfs, hlow⟩

/-! ## The round trip (O1, O2) -/

/-- The fields of a command's word from bit 31 down (R90 to R96). -/
def layout : Instr → List (Nat × Nat)
  | .nop => [(6, 0x00), (26, 0)]
  | .gexp rd ra => [(6, 0x01), (3, rd), (3, ra), (20, 0)]
  | .glog rd ra => [(6, 0x02), (3, rd), (3, ra), (20, 0)]
  | .gfmul rd ra rb => [(6, 0x03), (3, rd), (3, ra), (3, rb), (17, 0)]
  | .pnorm pd pa shift => [(6, 0x08), (2, pd), (2, pa), (2, 0), (8, shift), (12, 0)]
  | .pmul pd pa pb => [(6, 0x09), (2, pd), (2, pa), (2, pb), (20, 0)]
  | .pmod pd pa pb => [(6, 0x0A), (2, pd), (2, pa), (2, pb), (20, 0)]
  | .rsgen pd n => [(6, 0x0B), (2, pd), (4, 0), (8, n), (12, 0)]
  | .rsenc => [(6, 0x10), (26, 0)]
  | .bchfmt rd ra => [(6, 0x18), (3, rd), (3, ra), (20, 0)]
  | .bchver rd ra => [(6, 0x19), (3, rd), (3, ra), (20, 0)]
  | .minit => [(6, 0x20), (26, 0)]
  | .mplace => [(6, 0x21), (26, 0)]
  | .mscore rd => [(6, 0x22), (3, rd), (23, 0)]
  | .mbuild => [(6, 0x23), (26, 0)]
  | .mpred rd ra rb m => [(6, 0x24), (3, rd), (3, ra), (3, rb), (3, m), (14, 0)]

theorem width_layout (i : Instr) : width (layout i) = 32 := by cases i <;> rfl

theorem wellFormed_iff_fits (i : Instr) : i.WellFormed ↔ Fits (layout i) := by
  cases i <;> simp [Instr.WellFormed, Instr.wellFormed, layout, Fits]

theorem encode_eq_pack (i : Instr) : encode i = BitVec.ofNat 32 (pack (layout i)) := by
  cases i
  all_goals
    refine congrArg (BitVec.ofNat 32) ?_
    simp [layout, pack, width, Nat.add_assoc]

theorem xField_eq_iff {w : Word} {lo : Nat} {r : Fin 8} : xField w lo = r ↔ field w lo 3 = r := by
  have hlt : field w lo 3 < 8 := field_lt w lo 3
  rw [xField, Fin.ext_iff, Fin.val_ofNat, Nat.mod_eq_of_lt hlt]

theorem pField_eq_iff {w : Word} {lo : Nat} {r : Fin 4} : pField w lo = r ↔ field w lo 2 = r := by
  have hlt : field w lo 2 < 4 := field_lt w lo 2
  rw [pField, Fin.ext_iff, Fin.val_ofNat, Nat.mod_eq_of_lt hlt]

/-- The zero fields and the operand fields of a row are, with the opcode, all of the word. -/
theorem decode_eq_ok_iff_holds {w : Word} {i : Instr} : decode w = .ok i ↔ Holds w (layout i) := by
  rw [decode_eq_ok_iff]
  cases i <;>
    simp [opcodeOf, opcodeNumber, zerosOf, withOperandsOf, xField_eq_iff, pField_eq_iff, layout, Holds, width,
      and_assoc, and_comm, and_left_comm]

/-- R99, R100: the decoder and the encoder are inverse to each other on well-formed commands. -/
theorem decode_eq_ok_iff_encode {w : Word} {i : Instr} : decode w = .ok i ↔ i.WellFormed ∧ encode i = w := by
  rw [decode_eq_ok_iff_holds, holds_iff, width_layout, ← wellFormed_iff_fits, encode_eq_pack]
  refine and_congr_right fun hi => ?_
  have hlt : pack (layout i) < 2 ^ 32 := width_layout i ▸ pack_lt ((wellFormed_iff_fits i).mp hi)
  rw [← BitVec.toNat_inj, BitVec.toNat_ofNat, Nat.mod_eq_of_lt hlt, Nat.mod_eq_of_lt w.isLt, eq_comm]

/-- Settles O1: the encoding of a command is a word of its fields. -/
theorem decodeEncodeRoundTrip : Obligations.DecodeEncodeRoundTrip := fun _ hi =>
  decode_eq_ok_iff_encode.mpr ⟨hi, rfl⟩

/-- Settles O2. -/
theorem eachWordHasOneMeaning : Obligations.EachWordHasOneMeaning := fun _ _ => decode_eq_ok_iff_encode.mp

/-! ## The rows of the opcode table (O3, O6) -/

/-- A word whose ones are the bits of one field. -/
def fieldMask (lo len : Nat) : Word := BitVec.ofNat 32 ((2 ^ len - 1) * 2 ^ lo)

/-- A word whose ones are the bits of these fields. -/
def zerosMask (zeros : List (Nat × Nat)) : Word := zeros.foldr (fun z m => fieldMask z.1 z.2 ||| m) 0

theorem and_fieldMask (w : Word) (lo len : Nat) :
    w &&& fieldMask lo len = BitVec.ofNat 32 (field w lo len * 2 ^ lo) := by
  refine BitVec.eq_of_getLsbD_eq fun i hi => ?_
  simp only [fieldMask, field, BitVec.getLsbD_and, BitVec.getLsbD_ofNat, hi, Nat.testBit_mul_two_pow,
    Nat.testBit_mod_two_pow, Nat.testBit_two_pow_sub_one, Nat.testBit_div_two_pow]
  by_cases hlo : lo ≤ i
  · simp [hlo, Nat.sub_add_cancel hlo, BitVec.testBit_toNat, Bool.and_comm]
  · simp [hlo]

theorem field_eq_iff_and_fieldMask {w : Word} {lo len v : Nat} (hv : v * 2 ^ lo < 2 ^ 32) :
    field w lo len = v ↔ w &&& fieldMask lo len = BitVec.ofNat 32 (v * 2 ^ lo) := by
  have hw : field w lo len * 2 ^ lo < 2 ^ 32 :=
    calc field w lo len * 2 ^ lo ≤ w.toNat / 2 ^ lo * 2 ^ lo := Nat.mul_le_mul_right _ (Nat.mod_le ..)
      _ ≤ w.toNat := Nat.div_mul_le_self ..
      _ < 2 ^ 32 := w.isLt
  rw [and_fieldMask, ← BitVec.toNat_inj, BitVec.toNat_ofNat, BitVec.toNat_ofNat, Nat.mod_eq_of_lt hw,
    Nat.mod_eq_of_lt hv, Nat.mul_left_inj (Nat.two_pow_pos lo).ne']

theorem and_zerosMask_eq_zero_iff {w : Word} {zeros : List (Nat × Nat)} :
    w &&& zerosMask zeros = 0 ↔ ∀ z ∈ zeros, field w z.1 z.2 = 0 := by
  induction zeros with
  | nil => simp [zerosMask]
  | cons z zs ih =>
    have hz : field w z.1 z.2 = 0 ↔ w &&& fieldMask z.1 z.2 = 0 := by
      simpa using field_eq_iff_and_fieldMask (w := w) (lo := z.1) (len := z.2) (v := 0) (by simp)
    rw [List.forall_mem_cons, ← ih, hz]
    simp [zerosMask, BitVec.and_or_distrib_left, BitVec.or_eq_zero_iff]

/-- A mask keeps its own bits of a union. -/
theorem or_and_self_left (a b : Word) : (a ||| b) &&& a = a := by
  ext i hi
  simp only [BitVec.getElem_and, BitVec.getElem_or]
  exact (Bool.and_comm ..).trans inf_sup_self

/-- Two masks compared at once, where the value expected lies in the first and outside the second. -/
theorem and_or_eq_iff {w a b m : Word} (ha : m &&& a = m) (hb : m &&& b = 0) :
    w &&& (a ||| b) = m ↔ w &&& a = m ∧ w &&& b = 0 := by
  constructor
  · intro h
    have hb' : (a ||| b) &&& b = b := BitVec.or_comm a b ▸ or_and_self_left b a
    exact ⟨by rw [← ha, ← h, BitVec.and_assoc, or_and_self_left], by rw [← hb, ← h, BitVec.and_assoc, hb']⟩
  · rintro ⟨h1, h2⟩
    rw [BitVec.and_or_distrib_left, h1, h2, BitVec.ofNat_eq_ofNat, BitVec.or_zero]

/-- The match column holds the opcode, the mask column the opcode's bits and the zero fields'. -/
theorem rowOf_eq (i : Instr) :
    rowOf i = (BitVec.ofNat 32 (opcodeNumber i * 2 ^ 26), fieldMask 26 6 ||| zerosMask (zerosOf i)) := by
  cases i <;> simp only [rowOf, opcodeNumber, zerosOf] <;> decide

theorem opcodeNumber_lt (i : Instr) : opcodeNumber i < 64 := by cases i <;> simp [opcodeNumber]

theorem and_rowOf_eq_iff {w : Word} {i : Instr} : w &&& (rowOf i).2 = (rowOf i).1 ↔
    opcodeOf w = opcodeNumber i ∧ ∀ z ∈ zerosOf i, field w z.1 z.2 = 0 := by
  have hop : opcodeNumber i * 2 ^ 26 < 2 ^ 32 := by have := opcodeNumber_lt i; omega
  have hin : (rowOf i).1 &&& fieldMask 26 6 = (rowOf i).1 := by cases i <;> simp only [rowOf] <;> decide
  have hout : (rowOf i).1 &&& zerosMask (zerosOf i) = 0 := by cases i <;> simp only [rowOf, zerosOf] <;> decide
  rw [opcodeOf, field_eq_iff_and_fieldMask hop, ← and_zerosMask_eq_zero_iff]
  rw [rowOf_eq] at hin hout ⊢
  exact and_or_eq_iff hin hout

theorem rowOf_mem (i : Instr) : rowOf i ∈ opcodeRows := by cases i <;> simp [rowOf, opcodeRows]

/-- A command of each row, in the order of R96. -/
def commands : List Instr :=
  [.nop, .gexp 0 0, .glog 0 0, .gfmul 0 0 0, .pnorm 0 0 0, .pmul 0 0 0, .pmod 0 0 0, .rsgen 0 0, .rsenc, .bchfmt 0 0,
   .bchver 0 0, .minit, .mplace, .mscore 0, .mbuild, .mpred 0 0 0 0]

theorem opcodeRows_eq : opcodeRows = commands.map rowOf := rfl

theorem exists_rowOf_eq {row : Word × Word} (h : row ∈ opcodeRows) : ∃ i, rowOf i = row := by
  rw [opcodeRows_eq, List.mem_map] at h
  obtain ⟨i, -, hi⟩ := h
  exact ⟨i, hi⟩

/-- R96 for the row of `i`. -/
theorem exists_decode_iff_and_rowOf {w : Word} {i : Instr} :
    (∃ j, decode w = .ok j ∧ rowOf j = rowOf i) ↔ w &&& (rowOf i).2 = (rowOf i).1 := by
  constructor
  · rintro ⟨j, hj, hrow⟩
    obtain ⟨hop, hzeros, -⟩ := decode_eq_ok_iff.mp hj
    exact hrow ▸ and_rowOf_eq_iff.mpr ⟨hop, hzeros⟩
  · intro h
    obtain ⟨hop, hzeros⟩ := and_rowOf_eq_iff.mp h
    exact ⟨withOperandsOf w i, (decode_of_opcode hop).trans (strict_eq_ok_iff.mpr ⟨hzeros, rfl⟩),
      rowOf_withOperandsOf w i⟩

/-- Settles O3. -/
theorem decodeFollowsOpcodeTable : Obligations.DecodeFollowsOpcodeTable := by
  refine ⟨rowOf_mem, fun row hrow w => ?_⟩
  obtain ⟨i, rfl⟩ := exists_rowOf_eq hrow
  exact exists_decode_iff_and_rowOf

/-- A word that no row matches decodes to no command (R98). -/
theorem decode_ne_ok_of_no_row {w : Word} (h : ∀ row ∈ opcodeRows, w &&& row.2 ≠ row.1) (i : Instr) :
    decode w ≠ .ok i := fun hi =>
  h _ (rowOf_mem i) (exists_decode_iff_and_rowOf.mp ⟨i, hi, rfl⟩)

/-- Settles O6: a decoded word would match its command's row. -/
theorem illegalWordTakesFault : Obligations.IllegalWordTakesFault := by
  refine ⟨fun s w h => ?_, by decide, by simp [opcodeRows]⟩
  unfold runCommand
  split
  case h_1 i hi => exact absurd hi (decode_ne_ok_of_no_row h i)
  case h_2 => rfl

/-! ## The examples of the spec (O4) -/

/-- Settles O4: the decoder evaluated on the eleven words. -/
theorem exampleWordsDecode : Obligations.ExampleWordsDecode := by
  unfold Obligations.ExampleWordsDecode
  decide

end Sys2Proof.Encoding
end

section
/-! PROOFS, field family (1 of 2). Every non-zero element is a power of α, and the product by a power of α is that many
times `xtime`, which is additive: the laws of the product (O27), its agreement with shift and add, and the inversion of
`gexp` and `glog` (O26) follow. -/

namespace Sys2Proof.Machine

/-! ## Multiplication by α -/

/-- `xtime` shifts, and where a bit leaves the byte subtracts what is left of 0x11D (R110). -/
theorem xtime_eq : ∀ b : Byte, xtime b = b <<< 1 ^^^ if b.msb then 0x1D else 0 := by decide

theorem xtime_ne_zero : ∀ b : Byte, b ≠ 0 → xtime b ≠ 0 := by decide

theorem xtime_xor (a b : Byte) : xtime (a ^^^ b) = xtime a ^^^ xtime b := by
  have hmsb : (if (a ^^^ b).msb then 0x1D else 0 : Byte) =
      (if a.msb then 0x1D else 0) ^^^ if b.msb then 0x1D else 0 := by
    rw [BitVec.msb_xor]
    cases a.msb <;> cases b.msb <;> rfl
  rw [xtime_eq, xtime_eq, xtime_eq, hmsb, BitVec.shiftLeft_xor_distrib]
  ac_rfl

theorem xtimes_zero (k : Nat) : xtimes 0 k = 0 := by
  induction k with
  | zero => rfl
  | succ k ih => rw [xtimes, ih]; rfl

theorem xtimes_xor (a b : Byte) (k : Nat) : xtimes (a ^^^ b) k = xtimes a k ^^^ xtimes b k := by
  induction k with
  | zero => rfl
  | succ k ih => rw [xtimes, ih, xtime_xor, xtimes, xtimes]

/-! ## Powers of α -/

@[simp] theorem alphaPow_ne_zero (n : Nat) : alphaPow n ≠ 0 := by
  induction n with
  | zero => decide
  | succ n ih => exact xtime_ne_zero _ ih

theorem xtimes_alphaPow (m n : Nat) : xtimes (alphaPow m) n = alphaPow (m + n) := by
  induction n with
  | zero => rfl
  | succ n ih => rw [xtimes, ih, ← Nat.add_assoc, alphaPow]

/-- R110: `α^255 = 1`. -/
theorem periodic_alphaPow : Function.Periodic alphaPow 255 := fun n => by
  have h : alphaPow 255 = alphaPow 0 := (expRom_eq_alphaPow (by omega)).symm
  rw [Nat.add_comm, ← xtimes_alphaPow, h, xtimes_alphaPow, Nat.zero_add]

@[simp] theorem alphaPow_mod (n : Nat) : alphaPow (n % 255) = alphaPow n := periodic_alphaPow.map_mod_nat n

theorem gexpNat_eq_alphaPow (n : Nat) : gexpNat n = alphaPow n := by
  have hn : n % 255 < 255 := Nat.mod_lt _ (by omega)
  rw [gexpNat, expRom_eq_alphaPow (by omega), alphaPow_mod]

@[simp] theorem gexp_natCast (n : Nat) : gexp n = alphaPow n := by
  have hn : ((n : Int) % 255).toNat = n % 255 := by omega
  rw [gexp, hn, gexpNat_eq_alphaPow, alphaPow_mod]

@[simp] theorem logOf_alphaPow (n : Nat) : logOf (alphaPow n) = n % 255 := by
  have hn : n % 255 < 255 := Nat.mod_lt _ (by omega)
  rw [← alphaPow_mod, ← expRom_eq_alphaPow (by omega), logOf_expRom _ hn]

theorem alphaPow_logOf {b : Byte} (h : b ≠ 0) : alphaPow (logOf b) = b := by
  rw [← gexp_natCast, gexp_logOf b h]

theorem eq_zero_or_alphaPow (b : Byte) : b = 0 ∨ ∃ n, b = alphaPow n := by
  by_cases h : b = 0
  · exact .inl h
  · exact .inr ⟨logOf b, (alphaPow_logOf h).symm⟩

/-- A logarithm is reduced modulo 255 (R111). -/
theorem logOf_lt (b : Byte) : logOf b < 255 := by
  rcases eq_zero_or_alphaPow b with rfl | ⟨n, rfl⟩
  · decide
  · rw [logOf_alphaPow]; exact Nat.mod_lt _ (by omega)

theorem glog_of_ne_zero {b : Byte} (h : b ≠ 0) : glog b = some (logOf b) := if_neg h

/-- Settles O26. -/
theorem expAndLogInvert : Obligations.ExpAndLogInvert := by
  refine ⟨fun n => gexpNat_eq_alphaPow _, rfl, fun b hb => ?_, fun k => ?_⟩
  · exact ⟨logOf b, glog_of_ne_zero hb, logOf_lt b, gexp_logOf b hb⟩
  · rw [gexp_natCast, glog_of_ne_zero (alphaPow_ne_zero k), logOf_alphaPow]

/-! ## The product -/

theorem gmul_zero (a : Byte) : gmul a 0 = 0 := if_pos (.inr rfl)

theorem zero_gmul (b : Byte) : gmul 0 b = 0 := if_pos (.inl rfl)

theorem gmul_of_ne_zero {a b : Byte} (ha : a ≠ 0) (hb : b ≠ 0) : gmul a b = alphaPow (logOf a + logOf b) := by
  rw [gmul, if_neg (not_or.mpr ⟨ha, hb⟩), gexpNat_eq_alphaPow]

theorem gmul_comm (a b : Byte) : gmul a b = gmul b a := by simp only [gmul, or_comm, Nat.add_comm]

@[simp] theorem gmul_alphaPow (m n : Nat) : gmul (alphaPow m) (alphaPow n) = alphaPow (m + n) := by
  rw [gmul_of_ne_zero (alphaPow_ne_zero m) (alphaPow_ne_zero n), logOf_alphaPow, logOf_alphaPow, ← alphaPow_mod (m + n),
    Nat.add_mod, alphaPow_mod]

/-- The product by a power of α, with no logarithm. -/
theorem alphaPow_gmul (n : Nat) (b : Byte) : gmul (alphaPow n) b = xtimes b n := by
  rcases eq_zero_or_alphaPow b with rfl | ⟨m, rfl⟩
  · rw [gmul_zero, xtimes_zero]
  · rw [gmul_alphaPow, xtimes_alphaPow, Nat.add_comm]

theorem gmul_assoc (a b c : Byte) : gmul (gmul a b) c = gmul a (gmul b c) := by
  rcases eq_zero_or_alphaPow a with rfl | ⟨i, rfl⟩
  · simp only [zero_gmul]
  rcases eq_zero_or_alphaPow b with rfl | ⟨j, rfl⟩
  · simp only [zero_gmul, gmul_zero]
  rcases eq_zero_or_alphaPow c with rfl | ⟨k, rfl⟩
  · simp only [gmul_zero]
  · simp only [gmul_alphaPow, Nat.add_assoc]

theorem one_gmul (a : Byte) : gmul 1 a = a := alphaPow_gmul 0 a

theorem gmul_one (a : Byte) : gmul a 1 = a := (gmul_comm a 1).trans (one_gmul a)

theorem gmul_xor (a b c : Byte) : gmul a (b ^^^ c) = gmul a b ^^^ gmul a c := by
  rcases eq_zero_or_alphaPow a with rfl | ⟨n, rfl⟩
  · simp only [zero_gmul]
    rfl
  · simp only [alphaPow_gmul, xtimes_xor]

theorem gmul_eq_zero_iff {a b : Byte} : gmul a b = 0 ↔ a = 0 ∨ b = 0 := by
  refine ⟨fun h => ?_, fun h => if_pos h⟩
  contrapose! h
  obtain ⟨ha, hb⟩ := h
  rw [gmul_of_ne_zero ha hb]
  exact alphaPow_ne_zero _

/-- Settles O27. -/
theorem fieldProductLaws : Obligations.FieldProductLaws := by
  refine fun a b c => ⟨fun ha hb => ?_, gmul_comm a b, gmul_assoc a b c, one_gmul a, gmul_xor a b c, gmul_eq_zero_iff⟩
  exact ⟨_, _, glog_of_ne_zero ha, glog_of_ne_zero hb, (gmul_of_ne_zero ha hb).trans (gexp_natCast _).symm⟩

/-! ## The product by shift and add -/

theorem gmul_xtimes (a b : Byte) (k : Nat) : gmul a (xtimes b k) = xtimes (gmul a b) k := by
  rw [← alphaPow_gmul, ← alphaPow_gmul, ← gmul_assoc, ← gmul_assoc, gmul_comm a]

theorem gmul_xorSum (a : Byte) (l : List Byte) : gmul a (xorSum l) = xorSum (l.map (gmul a)) := by
  rw [xorSum, xorSum, List.foldl_map, ← List.foldl_hom (gmul a) (g₂ := fun v c => v ^^^ gmul a c)
    fun x y => (gmul_xor a x y).symm, gmul_zero]

theorem gmul_mulRef (a b c : Byte) : gmul a (mulRef b c) = mulRef (gmul a b) c := by
  rw [mulRef, gmul_xorSum, List.map_map, mulRef]
  refine congrArg xorSum (List.map_congr_left fun k _ => ?_)
  simp only [Function.comp_apply, apply_ite (gmul a), gmul_xtimes, gmul_zero]

/-- A byte is the sum of the powers of α that its bits name. -/
theorem mulRef_one : ∀ b : Byte, mulRef 1 b = b := by decide

/-- The product by logarithms is the product by shift and add (R116). -/
theorem gmul_eq_mulRef (a b : Byte) : gmul a b = mulRef a b := by
  rw [← mulRef_one b, gmul_mulRef, gmul_one, mulRef_one]

end Sys2Proof.Machine
end

section
/-! PROOFS, field family (2 of 2). The commands NOP, GEXP, GLOG and GFMUL (O22 to O25). -/

namespace Sys2Proof.Machine

open Sys2Proof.Encoding

/-! ## The words of the commands -/

/-- A well-formed command has its encoding as its only word (R99, R100). -/
theorem isOnlyWordOf_of_encode {w : Word} {i : Instr} (hi : i.WellFormed) (hw : encode i = w) : IsOnlyWordOf w i :=
  fun _ => decode_eq_ok_iff_encode.trans ⟨fun ⟨_, hi'⟩ => hi'.symm.trans hw, fun h => ⟨hi, hw.trans h.symm⟩⟩

theorem encodeR_zero (op : Nat) (rd ra : Fin 8) :
    encodeR op rd ra 0 = BitVec.ofNat 32 (op * 2 ^ 26 + rd.val * 2 ^ 23 + ra.val * 2 ^ 20) := by simp [encodeR]

theorem strict_cases (w : Word) (zeros : List (Nat × Nat)) (i : Instr) :
    strict w zeros i = .ok i ∨ strict w zeros i = .error .nonzeroField := by
  rw [strict]
  split
  · exact .inl rfl
  · exact .inr rfl

/-! ## Operands that are field elements -/

theorem toNat_xByte {r : Fin 8} {s : State} (h : (s.x.get r).toNat ≤ 255) : (xByte r s).toNat = (s.x.get r).toNat := by
  rw [xByte, readX, BitVec.toNat_setWidth, Nat.mod_eq_of_lt (by omega)]

theorem xByte_ne_zero {r : Fin 8} {s : State} (h1 : 1 ≤ (s.x.get r).toNat) (h : (s.x.get r).toNat ≤ 255) :
    xByte r s ≠ 0 := fun h0 => by
  rw [← toNat_xByte h, h0] at h1
  exact absurd h1 (by decide)

/-! ## What the commands do -/

theorem exec_gexp (rd ra : Fin 8) (s : State) :
    exec (.gexp rd ra) s = retire (setX rd ((alphaPow (xNat ra s)).setWidth 32) s) := by
  rw [exec, execGexp, gexp_natCast]

theorem exec_glog_of_large {rd ra : Fin 8} {s : State} (h : xNat ra s > 255) :
    exec (.glog rd ra) s = raise .invalidParameter s := if_pos h

theorem exec_glog_of_small {rd ra : Fin 8} {s : State} (h : xNat ra s ≤ 255) : exec (.glog rd ra) s =
    if xByte ra s = 0 then raise .internal s else retire (setX rd (BitVec.ofNat 32 (logOf (xByte ra s))) s) := by
  rw [exec, execGlog, if_neg (by omega), glog]
  split_ifs <;> rfl

theorem exec_gfmul_of_large {rd ra rb : Fin 8} {s : State} (h : xNat ra s > 255 ∨ xNat rb s > 255) :
    exec (.gfmul rd ra rb) s = raise .invalidParameter s := if_pos h

theorem exec_gfmul_of_small {rd ra rb : Fin 8} {s : State} (ha : xNat ra s ≤ 255) (hb : xNat rb s ≤ 255) :
    exec (.gfmul rd ra rb) s = retire (setX rd ((mulRef (xByte ra s) (xByte rb s)).setWidth 32) s) := by
  rw [exec, execGfmul, if_neg (by omega), gmul_eq_mulRef]

/-! ## The four statements -/

/-- Settles O22: the decoder's arm for opcode 0 gives NOP or the fault, and the only word of NOP is 0. -/
theorem nopResult : Obligations.NopResult := by
  have hword : IsOnlyWordOf 0x00000000 .nop := isOnlyWordOf_of_encode rfl rfl
  refine ⟨hword, fun w hop hw => ?_, fun s => rfl⟩
  have hne : decode w ≠ .ok .nop := fun h => hw ((hword w).mp h)
  rw [decode_of_opcode (i := .nop) hop] at hne ⊢
  exact (strict_cases w _ .nop).resolve_left hne

/-- Settles O23. -/
theorem gexpResult : Obligations.GexpResult := fun rd ra =>
  ⟨isOnlyWordOf_of_encode rfl (encodeR_zero 1 rd ra), fun s => by rw [alphaPow_mod]; exact exec_gexp rd ra s⟩

/-- Settles O24: the exponent is the ROM's logarithm, since the operand is the power of α with that exponent. -/
theorem glogResult : Obligations.GlogResult := by
  refine fun rd ra => ⟨isOnlyWordOf_of_encode rfl (encodeR_zero 2 rd ra), fun s => ?_⟩
  refine ⟨exec_glog_of_large, fun h0 => ?_, fun h1 h => ?_⟩
  · have hx : xByte ra s = 0 := congrArg (BitVec.setWidth 8) h0
    have hsmall : xNat ra s ≤ 255 := by rw [xNat, readX, h0]; decide
    rw [exec_glog_of_small hsmall, if_pos hx]
    rfl
  · have hx : xByte ra s ≠ 0 := xByte_ne_zero h1 h
    refine ⟨logOf (xByte ra s), logOf_lt _, by rw [alphaPow_logOf hx, toNat_xByte h], ?_⟩
    rw [exec_glog_of_small h, if_neg hx]
    rfl

/-- Settles O25. -/
theorem gfmulResult : Obligations.GfmulResult := fun _ _ _ =>
  ⟨isOnlyWordOf_of_encode rfl rfl, fun _ => ⟨exec_gfmul_of_large, exec_gfmul_of_small⟩⟩

end Sys2Proof.Machine
end

section
/-! PROOFS, polynomial family (1 of 3). The value of a polynomial as a sum of its terms, and what each list operation of
the polynomial commands does to it: the values of the product (R135), of the generator (R139) and of one subtraction of
the division (R136). -/

namespace Sys2Proof.Machine

/-! ## Powers -/

/-- `x^n` in GF(256). -/
def gpow (x : Byte) : Nat → Byte
  | 0 => 1
  | n + 1 => gmul (gpow x n) x

theorem xor_zero (a : Byte) : a ^^^ 0 = a := BitVec.xor_zero

theorem zero_xor (a : Byte) : 0 ^^^ a = a := BitVec.zero_xor

theorem xor_gmul (a b c : Byte) : gmul (a ^^^ b) c = gmul a c ^^^ gmul b c := by
  rw [gmul_comm, gmul_xor, gmul_comm c, gmul_comm c]

theorem gpow_add (x : Byte) (m n : Nat) : gpow x (m + n) = gmul (gpow x m) (gpow x n) := by
  induction n with
  | zero => rw [Nat.add_zero, gpow, gmul_one]
  | succ n ih => rw [← Nat.add_assoc, gpow, ih, gpow, gmul_assoc]

/-- `gexp` turns sums into products, for negative exponents too (R112). -/
theorem gexp_add (m n : Int) : gexp (m + n) = gmul (gexp m) (gexp n) := by
  have hmod : ((m + n) % 255).toNat = ((m % 255).toNat + (n % 255).toNat) % 255 := by omega
  simp only [gexp, gexpNat_eq_alphaPow, gmul_alphaPow, hmod, alphaPow_mod]

/-! ## The value of a polynomial -/

@[simp] theorem polyEval_nil (x : Byte) : polyEval [] x = 0 := rfl

theorem polyEval_concat (l : List Byte) (c x : Byte) : polyEval (l ++ [c]) x = gmul (polyEval l x) x ^^^ c := by
  simp [polyEval]

/-- Horner's rule on the lower coefficients, the higher ones done. -/
theorem polyEval_append (l m : List Byte) (x : Byte) :
    polyEval (l ++ m) x = gmul (polyEval l x) (gpow x m.length) ^^^ polyEval m x := by
  induction m using List.reverseRecOn with
  | nil => rw [List.append_nil, List.length_nil, gpow, gmul_one, polyEval_nil, xor_zero]
  | append_singleton m c ih =>
    rw [← List.append_assoc, polyEval_concat, ih, polyEval_concat, List.length_append, List.length_singleton, gpow,
      xor_gmul, gmul_assoc, BitVec.xor_assoc]

/-- The leading coefficient's term, then the others. -/
theorem polyEval_cons (c : Byte) (l : List Byte) (x : Byte) :
    polyEval (c :: l) x = gmul c (gpow x l.length) ^^^ polyEval l x := by
  have h : polyEval [c] x = c := (congrArg (· ^^^ c) (zero_gmul x)).trans (zero_xor c)
  rw [← List.singleton_append, polyEval_append, h]

theorem polyEval_cons_zero (l : List Byte) (x : Byte) : polyEval (0 :: l) x = polyEval l x := by
  rw [polyEval_cons, zero_gmul, zero_xor]

theorem polyEval_zeros_append (k : Nat) (l : List Byte) (x : Byte) : polyEval (zeros k ++ l) x = polyEval l x := by
  induction k with
  | zero => rfl
  | succ k ih => exact (polyEval_cons_zero _ x).trans ih

theorem polyEval_zeros (k : Nat) (x : Byte) : polyEval (zeros k) x = 0 := by
  rw [← List.append_nil (zeros k), polyEval_zeros_append, polyEval_nil]

/-- Zeros behind a polynomial multiply it by a power of `x`. -/
theorem polyEval_append_zeros (l : List Byte) (k : Nat) (x : Byte) :
    polyEval (l ++ zeros k) x = gmul (polyEval l x) (gpow x k) := by
  rw [polyEval_append, polyEval_zeros, zeros, List.length_replicate, xor_zero]

theorem polyEval_map_gmul (k : Byte) (l : List Byte) (x : Byte) :
    polyEval (l.map (gmul k)) x = gmul k (polyEval l x) := by
  induction l with
  | nil => exact (gmul_zero k).symm
  | cons c l ih => rw [List.map_cons, polyEval_cons, ih, List.length_map, polyEval_cons, gmul_xor, gmul_assoc]

theorem polyEval_zipWith_xor {l m : List Byte} (h : l.length = m.length) (x : Byte) :
    polyEval (List.zipWith (· ^^^ ·) l m) x = polyEval l x ^^^ polyEval m x := by
  induction l generalizing m with
  | nil => rw [List.zipWith_nil_left, List.length_eq_zero_iff.mp h.symm, polyEval_nil, xor_zero]
  | cons c l ih =>
    obtain ⟨d, m, rfl⟩ := List.exists_cons_of_length_eq_add_one h.symm
    have hlen : l.length = m.length := Nat.succ.inj h
    rw [List.zipWith_cons_cons, polyEval_cons, ih hlen, List.length_zipWith, hlen, Nat.min_self, polyEval_cons,
      polyEval_cons, hlen, xor_gmul]
    ac_rfl

/-- Leading zeros do not count (R131). -/
theorem polyEval_strip (l : List Byte) (x : Byte) : polyEval (strip l) x = polyEval l x := by
  induction l with
  | nil => exact polyEval_cons_zero [] x
  | cons c l ih =>
    by_cases hc : c = 0
    · rw [hc, strip_cons_zero, ih, polyEval_cons_zero]
    · rw [strip_cons_of_ne hc]

/-- Polynomials of at most `n` coefficients have a sum of at most `n`. -/
theorem exists_polyEval_xor {n : Nat} {p q : List Byte} (hp : p.length ≤ n) (hq : q.length ≤ n) :
    ∃ s : List Byte, s.length ≤ n ∧ ∀ x, polyEval s x = polyEval p x ^^^ polyEval q x := by
  have hp' : (zeros (n - p.length) ++ p).length = n := by simp [zeros]; omega
  have hq' : (zeros (n - q.length) ++ q).length = n := by simp [zeros]; omega
  refine ⟨List.zipWith (· ^^^ ·) (zeros (n - p.length) ++ p) (zeros (n - q.length) ++ q), ?_, fun x => ?_⟩
  · rw [List.length_zipWith, hp', hq', Nat.min_self]
  · rw [polyEval_zipWith_xor (hp'.trans hq'.symm), polyEval_zeros_append, polyEval_zeros_append]

/-! ## The product -/

theorem foldl_xor (v : Byte) (l : List Byte) : l.foldl (· ^^^ ·) v = v ^^^ xorSum l := by
  rw [xorSum, ← List.foldl_assoc (op := (· ^^^ · : Byte → Byte → Byte)), xor_zero]

theorem xorSum_cons (c : Byte) (l : List Byte) : xorSum (c :: l) = c ^^^ xorSum l := by
  rw [xorSum, List.foldl_cons, foldl_xor, zero_xor]

theorem xorSum_eq_zero {l : List Byte} (h : ∀ c ∈ l, c = 0) : xorSum l = 0 := by
  rw [List.eq_replicate_of_mem h]
  induction l.length with
  | zero => rfl
  | succ n ih => rw [List.replicate_succ, xorSum_cons, ih, xor_zero]

/-- Past the end of a list its coefficients are 0, so a product's coefficient need not look at its length. -/
theorem mulCoeff_eq (a b : List Byte) (k : Nat) : mulCoeff a b k =
    xorSum ((List.range a.length).map fun i => if i ≤ k then gmul (a.getD i 0) (b.getD (k - i) 0) else 0) := by
  refine congrArg xorSum (List.map_congr_left fun i _ => ?_)
  by_cases hb : k - i < b.length
  · simp only [hb, and_true]
  · rw [if_neg fun h => hb h.2, List.getD_eq_default b 0 (Nat.not_lt.mp hb), gmul_zero, ite_self]

theorem mulCoeff_cons (c : Byte) (a b : List Byte) (k : Nat) : mulCoeff (c :: a) b k = gmul c (b.getD k 0) ^^^
    xorSum ((List.range a.length).map fun i =>
      if i + 1 ≤ k then gmul (a.getD i 0) (b.getD (k - (i + 1)) 0) else 0) := by
  rw [mulCoeff_eq, List.length_cons, List.range_succ_eq_map, List.map_cons, xorSum_cons, List.map_map]
  rfl

theorem mulCoeff_cons_zero (c : Byte) (a b : List Byte) : mulCoeff (c :: a) b 0 = gmul c (b.getD 0 0) := by
  rw [mulCoeff_cons, xorSum_eq_zero (by simp), xor_zero]

/-- The head's term, and those of the tail one place on. -/
theorem mulCoeff_cons_succ (c : Byte) (a b : List Byte) (k : Nat) :
    mulCoeff (c :: a) b (k + 1) = gmul c (b.getD (k + 1) 0) ^^^ mulCoeff a b k := by
  simp only [mulCoeff_cons, mulCoeff_eq a, Nat.add_le_add_iff_right, Nat.add_sub_add_right]

theorem getElem_append_zeros (l : List Byte) {n k : Nat} (h : k < (l ++ zeros n).length) :
    (l ++ zeros n)[k] = l.getD k 0 := by
  by_cases hk : k < l.length
  · rw [List.getElem_append_left hk, List.getD_eq_getElem _ _ hk]
  · rw [List.getElem_append_right (Nat.not_lt.mp hk), List.getD_eq_default l 0 (Nat.not_lt.mp hk)]
    exact List.getElem_replicate _

theorem getD_map_gmul (c : Byte) (l : List Byte) (k : Nat) : (l.map (gmul c)).getD k 0 = gmul c (l.getD k 0) := by
  rw [← gmul_zero c, List.getD_map, gmul_zero]

/-- The product by `c·x^n + A` is the sum of the products by `c·x^n` and by `A`. -/
theorem mulList_cons (c : Byte) (a : List Byte) {b : List Byte} (hb : b ≠ []) : mulList (c :: a) b =
    List.zipWith (· ^^^ ·) (b.map (gmul c) ++ zeros a.length) (0 :: mulList a b) := by
  have hpos : 0 < b.length := List.length_pos_iff.mpr hb
  refine List.ext_getElem (by simp [zeros, mulList]; omega) fun k h1 h2 => ?_
  rw [List.getElem_zipWith, getElem_append_zeros, getD_map_gmul]
  cases k with
  | zero => simp [mulList, mulCoeff_cons_zero]
  | succ k => simp [mulList, mulCoeff_cons_succ]

/-- The list product is the product of the polynomials (R135). -/
theorem polyEval_mulList (a : List Byte) {b : List Byte} (hb : b ≠ []) (x : Byte) :
    polyEval (mulList a b) x = gmul (polyEval a x) (polyEval b x) := by
  induction a with
  | nil =>
    have hnil : mulList [] b = zeros (b.length - 1) := by
      have hcoeff : mulCoeff [] b = fun _ => 0 := rfl
      rw [mulList, hcoeff, List.map_const', List.length_range, List.length_nil, Nat.zero_add, zeros]
    rw [hnil, polyEval_zeros, polyEval_nil, zero_gmul]
  | cons c a ih =>
    have hpos : 0 < b.length := List.length_pos_iff.mpr hb
    have hlen : (b.map (gmul c) ++ zeros a.length).length = (0 :: mulList a b).length := by
      simp [zeros, mulList]; omega
    rw [mulList_cons c a hb, polyEval_zipWith_xor hlen, polyEval_append_zeros, polyEval_map_gmul, polyEval_cons_zero,
      ih, polyEval_cons, xor_gmul, gmul_assoc, gmul_assoc, gmul_comm (polyEval b x)]

/-- The leading coefficient of a product of polynomials without leading zeros is not 0 (R135). -/
theorem strip_mulList {c d : Byte} (hc : c ≠ 0) (hd : d ≠ 0) (a b : List Byte) :
    strip (mulList (c :: a) (d :: b)) = mulList (c :: a) (d :: b) := by
  have hne : gmul c d ≠ 0 := fun h => (gmul_eq_zero_iff.mp h).elim hc hd
  rw [mulList_cons c a (List.cons_ne_nil d b), List.map_cons, List.cons_append, List.zipWith_cons_cons, xor_zero,
    strip_cons_of_ne hne]

/-! ## The generator -/

/-- One step of R139 multiplies by `x - α^i`. -/
theorem polyEval_genStep (g : List Byte) (i : Nat) (x : Byte) :
    polyEval (genStep g i) x = gmul (polyEval g x) (x ^^^ alphaPow i) := by
  have hmap : (g.map fun c => gmul c (gexp i)) = g.map (gmul (alphaPow i)) := by
    simp only [gexp_natCast, gmul_comm _ (alphaPow i)]
  rw [genStep, polyEval_zipWith_xor (by simp), polyEval_concat, xor_zero, polyEval_cons_zero, hmap, polyEval_map_gmul,
    gmul_xor, gmul_comm (alphaPow i)]

/-- The generator is the product of `x - α^i` for `i < n` (R139). -/
theorem polyEval_rsgenpoly (n : Nat) (x : Byte) :
    polyEval (rsgenpoly n) x = (List.range n).foldl (fun v i => gmul v (x ^^^ alphaPow i)) 1 := by
  induction n with
  | zero => exact (polyEval_cons 1 [] x).trans ((xor_zero _).trans (one_gmul 1))
  | succ n ih => rw [rsgenpoly, polyEval_genStep, ih, List.range_succ, List.foldl_concat]

/-- `α^i` is a root of every later generator. -/
theorem polyEval_rsgenpoly_root {i n : Nat} (h : i < n) : polyEval (rsgenpoly n) (alphaPow i) = 0 := by
  induction n with
  | zero => exact absurd h (Nat.not_lt_zero i)
  | succ n ih =>
    rw [rsgenpoly, polyEval_genStep]
    rcases Nat.lt_succ_iff_lt_or_eq.mp h with hi | rfl
    · rw [ih hi, zero_gmul]
    · exact (congrArg (gmul _) BitVec.xor_self).trans (gmul_zero _)

/-! ## One subtraction of the division -/

theorem reduceOnce_nil (a : List Byte) (e : Int) : reduceOnce a [] e = a := by simp [reduceOnce]

theorem reduceOnce_cons (c d : Byte) (a b : List Byte) (e : Int) :
    reduceOnce (c :: a) (d :: b) e = (c ^^^ gexp (logOf d + e)) :: reduceOnce a b e := rfl

theorem gexp_logOf_add {d : Byte} (hd : d ≠ 0) (e : Int) : gexp (logOf d + e) = gmul (gexp e) d := by
  rw [gexp_add, gexp_logOf d hd, gmul_comm]

/-- The subtraction of R136 takes a multiple of the divisor, by `α^e·x^k`, from the dividend. -/
theorem polyEval_reduceOnce {a b : List Byte} (hb : 0 ∉ b) (h : b.length ≤ a.length) (e : Int) (x : Byte) :
    polyEval (reduceOnce a b e) x =
      polyEval a x ^^^ gmul (gmul (gexp e) (gpow x (a.length - b.length))) (polyEval b x) := by
  induction b generalizing a with
  | nil => rw [reduceOnce_nil, polyEval_nil, gmul_zero, xor_zero]
  | cons d b ih =>
    cases a with
    | nil => exact absurd h (Nat.not_succ_le_zero _)
    | cons c a =>
      rw [List.mem_cons, not_or] at hb
      obtain ⟨hd, hb⟩ := hb
      have hlen : b.length ≤ a.length := Nat.le_of_succ_le_succ h
      have hpow : gpow x a.length = gmul (gpow x (a.length - b.length)) (gpow x b.length) := by
        rw [← gpow_add, Nat.sub_add_cancel hlen]
      have hterm : gmul (gmul (gexp e) d) (gpow x a.length) =
          gmul (gmul (gexp e) (gpow x (a.length - b.length))) (gmul d (gpow x b.length)) := by
        rw [hpow, gmul_assoc, gmul_assoc, ← gmul_assoc d, gmul_comm d, gmul_assoc]
      rw [reduceOnce_cons, gexp_logOf_add (Ne.symm hd), polyEval_cons, length_reduceOnce_eq, ih hb hlen,
        polyEval_cons c, polyEval_cons d, xor_gmul, hterm, gmul_xor, List.length_cons, List.length_cons, Nat.add_sub_add_right]
      ac_rfl

end Sys2Proof.Machine
end

section
/-! PROOFS, polynomial family (2 of 3). The division (R136): degrees, the loop's invariant, and the remainder it gives;
with it, that a block and its EC codewords vanish at the generator's roots (O33). -/

namespace Sys2Proof.Machine

/-! ## Degrees -/

theorem deg_strip (l : List Byte) : deg (strip l) = deg l := by rw [deg, strip_strip, deg]

theorem deg_cons {d : Byte} (hd : d ≠ 0) (l : List Byte) : deg (d :: l) = l.length := by
  rw [deg, strip_cons_of_ne hd, if_neg (cons_ne_zero hd l), List.length_cons, Nat.cast_succ, add_sub_cancel_right]

theorem deg_lt_length (l : List Byte) : deg l < l.length := by
  rcases strip_cases l with ⟨hz, -⟩ | ⟨k, c, cs, hl, hc, hs⟩
  · rw [deg, if_pos hz]; omega
  · rw [← deg_strip, hs, deg_cons hc, hl, List.length_append, List.length_cons]; omega

/-- A divisor that has a leading coefficient is not longer than a list of at least its degree. -/
theorem length_le_of_deg_le {d : Byte} (hd : d ≠ 0) {ds a : List Byte} (h : deg (d :: ds) ≤ deg a) :
    (d :: ds).length ≤ a.length := by
  have := deg_lt_length a
  rw [deg_cons hd] at h
  rw [List.length_cons]
  omega

/-! ## Congruence modulo a polynomial -/

/-- `a` and `r` differ by a multiple of `b`, the factor of at most `n` coefficients. -/
def CongruentMod (n : Nat) (b a r : List Byte) : Prop :=
  ∃ q : List Byte, q.length ≤ n ∧ ∀ x, polyEval a x = gmul (polyEval q x) (polyEval b x) ^^^ polyEval r x

theorem CongruentMod.of_polyEval_eq (n : Nat) (b : List Byte) {a r : List Byte}
    (h : ∀ x, polyEval a x = polyEval r x) : CongruentMod n b a r :=
  ⟨[], Nat.zero_le n, fun x => by rw [polyEval_nil, zero_gmul, zero_xor, h]⟩

theorem CongruentMod.trans {n : Nat} {b a c r : List Byte} (h : CongruentMod n b a c) (h' : CongruentMod n b c r) :
    CongruentMod n b a r := by
  obtain ⟨p, hp, hac⟩ := h
  obtain ⟨q, hq, hcr⟩ := h'
  obtain ⟨s, hs, hsum⟩ := exists_polyEval_xor hp hq
  exact ⟨s, hs, fun x => by rw [hac, hcr, hsum, xor_gmul, BitVec.xor_assoc]⟩

/-- The values of congruent polynomials agree at every root of the modulus. -/
theorem CongruentMod.polyEval_eq_of_root {n : Nat} {b a r : List Byte} (h : CongruentMod n b a r) {x : Byte}
    (hx : polyEval b x = 0) : polyEval a x = polyEval r x := by
  obtain ⟨q, -, hq⟩ := h
  rw [hq, hx, gmul_zero, zero_xor]

theorem congruentMod_reduceOnce {n : Nat} {a b : List Byte} (hb : 0 ∉ b) (h : b.length ≤ a.length)
    (hn : a.length + 1 ≤ n + b.length) (e : Int) : CongruentMod n b a (reduceOnce a b e) := by
  refine ⟨gexp e :: zeros (a.length - b.length), by simp [zeros]; omega, fun x => ?_⟩
  have hfactor : polyEval (gexp e :: zeros (a.length - b.length)) x =
      gmul (gexp e) (gpow x (a.length - b.length)) := by
    rw [polyEval_cons, polyEval_zeros, xor_zero, zeros, List.length_replicate]
  rw [polyEval_reduceOnce hb h, hfactor, BitVec.xor_comm (polyEval a x), ← BitVec.xor_assoc, BitVec.xor_self,
    BitVec.zero_xor]

/-! ## The loop of R136 -/

/-- Without a zero coefficient in the divisor every iteration succeeds. -/
theorem exists_polymodLoop {b : List Byte} (hb : 0 ∉ b) (fuel : Nat) (a : List Byte) :
    ∃ r, polymodLoop b fuel a = some r := by
  have hany : ¬ b.any (· = 0) = true := by simpa using hb
  induction fuel generalizing a with
  | zero => exact ⟨a, rfl⟩
  | succ fuel ih =>
    rw [polymodLoop, if_neg hany]
    split
    · exact ⟨a, rfl⟩
    · exact ih _

/-- What an iteration keeps, the loop keeps. -/
theorem polymodLoop_invariant {b : List Byte} {P : List Byte → Prop}
    (hstep : ∀ a e, P a → deg b ≤ deg a → P (strip (reduceOnce a b e)))
    {fuel : Nat} {a r : List Byte} (ha : P a) (h : polymodLoop b fuel a = some r) : P r := by
  induction fuel generalizing a with
  | zero => cases h; exact ha
  | succ fuel ih =>
    rw [polymodLoop] at h
    split at h
    · cases h; exact ha
    · rename_i hdeg
      split at h
      · cases h
      · exact ih (hstep a _ ha (not_lt.mp hdeg)) h

/-- A partial remainder of the division of `a` by `b`, whose quotient has at most `n` coefficients: normalised, no
longer than the dividend, and congruent to it. -/
structure PartialRemainder (n : Nat) (b a r : List Byte) : Prop where
  normalised : strip r = r
  length_le : r.length ≤ a.length
  congruent : CongruentMod n b a r

theorem PartialRemainder.step {n : Nat} {d : Byte} {ds a r : List Byte} (hb : 0 ∉ d :: ds)
    (hn : a.length + 1 ≤ n + (d :: ds).length) (h : PartialRemainder n (d :: ds) a r) (e : Int)
    (hdeg : deg (d :: ds) ≤ deg r) : PartialRemainder n (d :: ds) a (strip (reduceOnce r (d :: ds) e)) := by
  have hd : d ≠ 0 := fun h0 => hb (h0 ▸ List.mem_cons_self)
  have hlen := length_le_of_deg_le hd hdeg
  have hred : (reduceOnce r (d :: ds) e).length = r.length := length_reduceOnce_eq r (d :: ds) e
  have hne : reduceOnce r (d :: ds) e ≠ [] := List.ne_nil_of_length_pos (by rw [hred]; exact Nat.zero_lt_of_lt hlen)
  refine ⟨strip_strip _, (length_strip_le hne).trans (hred.trans_le h.length_le), h.congruent.trans ?_⟩
  have hstep := congruentMod_reduceOnce hb hlen ((Nat.succ_le_succ h.length_le).trans hn) e
  exact hstep.trans (.of_polyEval_eq _ _ fun x => (polyEval_strip _ x).symm)

/-- The division by a polynomial without a zero coefficient: the remainder is normalised, of smaller degree, no longer
than the dividend, and differs from it by a multiple of the divisor (R136). -/
theorem polymod_spec {n : Nat} {d : Byte} {ds a : List Byte} (ha : a ≠ []) (hb : 0 ∉ d :: ds)
    (hn : a.length + 1 ≤ n + (d :: ds).length) :
    ∃ r, polymod a (d :: ds) = some r ∧ deg r < deg (d :: ds) ∧ PartialRemainder n (d :: ds) a r := by
  have hd : d ≠ 0 := fun h0 => hb (h0 ▸ List.mem_cons_self)
  have hlen : (strip a).length ≤ a.length := length_strip_le ha
  obtain ⟨r, hr⟩ := exists_polymodLoop hb a.length (strip a)
  have hstart : PartialRemainder n (d :: ds) a (strip a) :=
    ⟨strip_strip a, hlen, .of_polyEval_eq _ _ fun x => (polyEval_strip a x).symm⟩
  refine ⟨r, by rw [polymod, List.headD_cons, if_neg hd, hr], ?_,
    polymodLoop_invariant (fun r e h hdeg => h.step hb hn e hdeg) hstart hr⟩
  rw [deg_cons hd]
  rcases length_polymodLoop hd (strip_strip a) (.inl (hlen.trans (Nat.le_add_right _ _))) hr with hshort | rfl
  · have := deg_lt_length r; omega
  · exact Int.lt_of_lt_of_le (by decide : deg [0] < 0) (Int.natCast_nonneg _)

/-- Where the dividend's degree is below the divisor's there is no iteration (R136). -/
theorem polymod_of_deg_lt {d : Byte} (hd : d ≠ 0) {a ds : List Byte} (h : deg a < deg (d :: ds)) :
    polymod a (d :: ds) = some (strip a) := by
  rw [polymod, List.headD_cons, if_neg hd]
  cases a.length with
  | zero => rfl
  | succ k => rw [polymodLoop, deg_strip, if_pos h]

/-- An iteration meets a zero coefficient of the divisor (R136). -/
theorem polymod_of_zero_mem {d : Byte} (hd : d ≠ 0) {a ds : List Byte} (hz : 0 ∈ d :: ds)
    (h : deg (d :: ds) ≤ deg a) : polymod a (d :: ds) = none := by
  have hany : (d :: ds).any (· = 0) = true := List.any_eq_true.mpr ⟨0, hz, decide_eq_true rfl⟩
  obtain ⟨k, hk⟩ : ∃ k, a.length = k + 1 := by
    have := length_le_of_deg_le hd h
    exact ⟨a.length - 1, by rw [List.length_cons] at this; omega⟩
  rw [polymod, List.headD_cons, if_neg hd, hk, polymodLoop, deg_strip, if_neg (not_lt.mpr h), if_pos hany]

/-! ## The stripped source of PNORM -/

theorem strip_of_all_zero {l : List Byte} (h : ∀ b ∈ l, b = 0) : strip l = [0] := by
  induction l with
  | nil => rfl
  | cons c l ih => rw [h c List.mem_cons_self, strip_cons_zero, ih fun b hb => h b (List.mem_cons_of_mem c hb)]

theorem strip_zeros_append {c : Byte} (hc : c ≠ 0) (k : Nat) (cs : List Byte) :
    strip (zeros k ++ c :: cs) = c :: cs := by
  induction k with
  | zero => exact strip_cons_of_ne hc cs
  | succ k ih => exact (strip_cons_zero _).trans ih

theorem pnormPoly_of_all_zero {a : List Byte} (h : ∀ b ∈ a, b = 0) (shift : Nat) : pnormPoly a shift = [0] :=
  if_pos (strip_of_all_zero h)

theorem pnormPoly_zeros_append {c : Byte} (hc : c ≠ 0) (k : Nat) (cs : List Byte) (shift : Nat) :
    pnormPoly (zeros k ++ c :: cs) shift = c :: cs ++ zeros shift := by
  rw [pnormPoly, strip_zeros_append hc, if_neg (cons_ne_zero hc cs)]

theorem pnormPoly_ne_nil (a : List Byte) (shift : Nat) : pnormPoly a shift ≠ [] := by
  rw [pnormPoly]
  split
  · exact List.cons_ne_nil 0 []
  · exact List.append_ne_nil_of_left_ne_nil (strip_ne_nil a) _

/-- The value of a polynomial times `x^shift` (R134). -/
theorem polyEval_pnormPoly (a : List Byte) (shift : Nat) (x : Byte) :
    polyEval (pnormPoly a shift) x = gmul (polyEval a x) (gpow x shift) := by
  have hzero : polyEval [0] x = 0 := polyEval_cons_zero [] x
  rw [pnormPoly, ← polyEval_strip a]
  split
  · rename_i h
    rw [h, hzero, zero_gmul]
  · exact polyEval_append_zeros _ _ x

/-! ## EC codewords -/

/-- No generator that RSENC uses has a zero coefficient (R156). -/
theorem zero_not_mem_rsgenpoly : ∀ e < 31, 0 ∉ rsgenpoly e := by decide

set_option maxRecDepth 4000 in
/-- A block has at most 30 EC codewords (R150, R156). -/
theorem blockTable_ecLength_le : ∀ row ∈ blockTable, ∀ g ∈ row, g.total - g.data ≤ 30 := by decide

theorem ecLength_le {v ec : Nat} (hv : v ≤ 40) (hec : ec < 4) {b : Nat × Nat} (hb : b ∈ rsBlocks v ec) :
    b.1 - b.2 ≤ 30 := by
  obtain ⟨g, hg, hgb⟩ := List.mem_flatMap.mp hb
  rw [(List.mem_replicate.mp hgb).2]
  exact blockTable_ecLength_le _ (blockRow_mem hv hec) g hg

/-- The EC codewords are the remainder of `d·x^e` by the generator, with zeros in front (R154, R155). -/
theorem polyEval_ecblock {d r : List Byte} {e : Nat} (h : polymod (pnormPoly d e) (rsgenpoly e) = some r) (x : Byte) :
    polyEval (ecblock d e) x = polyEval r x := by
  rw [ecblock, h, Option.getD_some, polyEval_zeros_append]
  split
  · rename_i h0
    rw [h0, polyEval_cons_zero]
  · rfl

/-- A block with its EC codewords vanishes at the roots of its generator. -/
theorem polyEval_append_ecblock {e i : Nat} (he : e < 31) (hi : i < e) (d : List Byte) :
    polyEval (d ++ ecblock d e) (alphaPow i) = 0 := by
  obtain ⟨g, hg⟩ : ∃ g, rsgenpoly e = 1 :: g := List.head?_eq_some_iff.mp (head?_rsgenpoly e)
  have hz : 0 ∉ 1 :: g := hg ▸ zero_not_mem_rsgenpoly e he
  have hroot : polyEval (1 :: g) (alphaPow i) = 0 := hg ▸ polyEval_rsgenpoly_root hi
  obtain ⟨r, hr, -, hrem⟩ := polymod_spec (pnormPoly_ne_nil d e) hz (Nat.le_add_right _ _)
  have hvalue := hrem.congruent.polyEval_eq_of_root hroot
  rw [polyEval_append, polyEval_ecblock (hg ▸ hr), length_ecblock, ← hvalue, polyEval_pnormPoly]
  exact BitVec.xor_self

/-- Settles O33. -/
theorem ecBlocksAreReedSolomonCodewords : Obligations.EcBlocksAreReedSolomonCodewords :=
  fun _ _ _ hv hec _ hb d _ =>
    ⟨length_ecblock d _, fun _ hi => polyEval_append_ecblock (Nat.lt_succ_of_le (ecLength_le hv hec hb)) hi d⟩

end Sys2Proof.Machine
end

section
/-! PROOFS, polynomial family (3 of 3). The commands PNORM, PMUL, PMOD and RSGEN (O28 to O31). -/

namespace Sys2Proof.Machine

/-! ## Polynomial operands (R130) -/

theorem tooLong_iff (p : Fin 4) (s : State) : tooLong p s = true ↔ 256 < plenOf p s := decide_eq_true_iff

theorem isEmpty_iff (p : Fin 4) (s : State) : isEmpty p s = true ↔ plenOf p s = 0 := decide_eq_true_iff

theorem exists_cons_polyOf {p : Fin 4} {s : State} (h : 0 < plenOf p s) : ∃ c cs, polyOf p s = c :: cs :=
  List.exists_cons_of_length_pos (h.trans_eq (length_polyOf p s).symm)

/-- A success writes the register and its PLEN (R132, R263). -/
theorem retire_setPoly (p : Fin 4) (l : List Byte) (s : State) : retire (setPoly p l s) = .next { s with
    mem := s.mem.setList (prAddr p 0) l, plen := s.plen.set p (BitVec.ofNat 9 l.length), pend := none, done := true } :=
  rfl

/-! ## PNORM -/

section
variable (pd pa : Fin 4) (shift : Nat) {s : State}

theorem exec_pnorm_of_tooLong (h : 256 < plenOf pa s) : exec (.pnorm pd pa shift) s = raise .invalidParameter s :=
  if_pos ((tooLong_iff pa s).mpr h)

theorem exec_pnorm_of_fits (h : plenOf pa s ≤ 256) : exec (.pnorm pd pa shift) s =
    if plenOf pa s = 0 then raise .internal s
    else if 256 < (pnormPoly (polyOf pa s) shift).length then raise .dataOverflow s
    else retire (setPoly pd (pnormPoly (polyOf pa s) shift) s) := by
  rw [exec, execPnorm, if_neg ((tooLong_iff pa s).not.mpr (not_lt.mpr h))]
  simp only [isEmpty_iff, Config.maxPoly, gt_iff_lt]

end

/-- Settles O28. -/
theorem pnormResult : Obligations.PnormResult := by
  refine fun pd pa shift hshift =>
    ⟨isOnlyWordOf_of_encode (decide_eq_true hshift) (by simp [encode, encodeP]), fun s => ?_⟩
  refine ⟨exec_pnorm_of_tooLong pd pa shift, fun h0 => ?_,
    fun (hpos : 0 < plenOf pa s) (hfit : plenOf pa s ≤ 256) => ⟨fun hzero => ?_, fun k c cs hl hc => ?_⟩⟩
  · have hlen : plenOf pa s = 0 := congrArg BitVec.toNat h0
    rw [exec_pnorm_of_fits pd pa shift (by omega), if_pos hlen]
    rfl
  · rw [exec_pnorm_of_fits pd pa shift hfit, if_neg hpos.ne', pnormPoly_of_all_zero hzero, if_neg (by decide)]
    exact retire_setPoly pd [0] s
  · have hpoly : pnormPoly (polyOf pa s) shift = c :: cs ++ zeros shift :=
      hl ▸ pnormPoly_zeros_append hc k cs shift
    have hlen : (c :: cs ++ zeros shift).length = cs.length + 1 + shift := by
      rw [List.length_append, List.length_cons, zeros, List.length_replicate]
    rw [exec_pnorm_of_fits pd pa shift hfit, if_neg hpos.ne', hpoly, retire_setPoly, hlen]
    exact ⟨fun h => if_neg (not_lt.mpr h), fun h => if_pos h⟩

/-! ## PMUL -/

section
variable (pd : Fin 4) {pa pb : Fin 4} {s : State}

theorem exec_pmul_of_tooLong (h : 256 < plenOf pa s ∨ 256 < plenOf pb s) :
    exec (.pmul pd pa pb) s = raise .invalidParameter s :=
  if_pos (h.imp (tooLong_iff pa s).mpr (tooLong_iff pb s).mpr)

theorem exec_pmul_of_fits (ha : plenOf pa s ≤ 256) (hb : plenOf pb s ≤ 256) : exec (.pmul pd pa pb) s =
    if plenOf pa s = 0 ∨ plenOf pb s = 0 then raise .internal s
    else if 256 < plenOf pa s + plenOf pb s - 1 then raise .dataOverflow s
    else (polymul (polyOf pa s) (polyOf pb s)).elim (raise .internal s) fun c => retire (setPoly pd c s) := by
  have hlong : ¬ (256 < plenOf pa s ∨ 256 < plenOf pb s) := by omega
  simp only [exec, execPmul, tooLong_iff, if_neg hlong, isEmpty_iff, Config.maxPoly]
  cases polymul (polyOf pa s) (polyOf pb s) <;> rfl

end

theorem polymul_of_zero_mem {a b : List Byte} (h : 0 ∈ a ∨ 0 ∈ b) : polymul a b = none := by
  refine if_pos (h.imp ?_ ?_) <;> exact fun h0 => List.any_eq_true.mpr ⟨0, h0, decide_eq_true rfl⟩

/-- The product of polynomials without a zero coefficient needs no stripping (R135). -/
theorem polymul_of_zero_not_mem {c d : Byte} {a b : List Byte} (ha : 0 ∉ c :: a) (hb : 0 ∉ d :: b) :
    polymul (c :: a) (d :: b) = some (mulList (c :: a) (d :: b)) := by
  have hany : ¬ ((c :: a).any (· = 0) = true ∨ (d :: b).any (· = 0) = true) := by
    simpa only [List.any_eq_true, decide_eq_true_eq, exists_eq_right] using not_or.mpr ⟨ha, hb⟩
  have hc : c ≠ 0 := fun h0 => ha (h0 ▸ List.mem_cons_self)
  have hd : d ≠ 0 := fun h0 => hb (h0 ▸ List.mem_cons_self)
  rw [polymul, if_neg hany, strip_mulList hc hd]

/-- Settles O29. -/
theorem pmulResult : Obligations.PmulResult := by
  refine fun pd pa pb => ⟨isOnlyWordOf_of_encode rfl (by simp [encode, encodeP]), fun s => ?_⟩
  refine ⟨exec_pmul_of_tooLong pd, fun ha hb => ?_⟩
  rw [exec_pmul_of_fits pd ha hb]
  refine ⟨fun h0 => if_pos h0, fun (hposa : 0 < plenOf pa s) (hposb : 0 < plenOf pb s) => ?_⟩
  have hne : ¬ (plenOf pa s = 0 ∨ plenOf pb s = 0) := not_or.mpr ⟨hposa.ne', hposb.ne'⟩
  rw [if_neg hne]
  refine ⟨fun h => if_pos h, fun (hfit : plenOf pa s + plenOf pb s - 1 ≤ 256) => ?_⟩
  rw [if_neg (not_lt.mpr hfit)]
  refine ⟨fun hz => by rw [polymul_of_zero_mem hz]; rfl, fun hza hzb => ?_⟩
  obtain ⟨c, cs, hc⟩ := exists_cons_polyOf hposa
  obtain ⟨d, ds, hd⟩ := exists_cons_polyOf hposb
  have hlen : (mulList (polyOf pa s) (polyOf pb s)).length = plenOf pa s + plenOf pb s - 1 := by
    rw [length_mulList, length_polyOf, length_polyOf]
  have hmul : polymul (polyOf pa s) (polyOf pb s) = some (mulList (polyOf pa s) (polyOf pb s)) := by
    rw [hc] at hza ⊢
    rw [hd] at hzb ⊢
    exact polymul_of_zero_not_mem hza hzb
  refine ⟨_, hlen, fun x => polyEval_mulList _ (hd ▸ List.cons_ne_nil d ds) x, ?_⟩
  rw [hmul, Option.elim_some, retire_setPoly, hlen]
  rfl

/-! ## PMOD -/

section
variable (pd : Fin 4) {pa pb : Fin 4} {s : State}

theorem exec_pmod_of_tooLong (h : 256 < plenOf pa s ∨ 256 < plenOf pb s) :
    exec (.pmod pd pa pb) s = raise .invalidParameter s :=
  if_pos (h.imp (tooLong_iff pa s).mpr (tooLong_iff pb s).mpr)

theorem exec_pmod_of_fits (ha : plenOf pa s ≤ 256) (hb : plenOf pb s ≤ 256) : exec (.pmod pd pa pb) s =
    if plenOf pa s = 0 ∨ plenOf pb s = 0 then raise .internal s
    else (polymod (polyOf pa s) (polyOf pb s)).elim (raise .internal s) fun r => retire (setPoly pd r s) := by
  have hlong : ¬ (256 < plenOf pa s ∨ 256 < plenOf pb s) := by omega
  simp only [exec, execPmod, tooLong_iff, if_neg hlong, isEmpty_iff]
  cases polymod (polyOf pa s) (polyOf pb s) <;> rfl

end

/-- A divisor with a leading zero makes `glog` fail (R136). -/
theorem polymod_of_head?_zero {b : List Byte} (h : b.head? = some 0) (a : List Byte) : polymod a b = none := by
  obtain ⟨ds, rfl⟩ := List.head?_eq_some_iff.mp h
  rfl

/-- Settles O30. -/
theorem pmodResult : Obligations.PmodResult := by
  refine fun pd pa pb => ⟨isOnlyWordOf_of_encode rfl (by simp [encode, encodeP]), fun s => ?_⟩
  refine ⟨exec_pmod_of_tooLong pd, fun (ha : plenOf pa s ≤ 256) (hb : plenOf pb s ≤ 256) => ?_⟩
  rw [exec_pmod_of_fits pd ha hb]
  refine ⟨fun h => ?_, fun (hposa : 0 < plenOf pa s) (hposb : 0 < plenOf pb s) hhead => ?_⟩
  · rw [← or_assoc] at h
    rcases h with hempty | hzero
    · exact if_pos hempty
    · rw [polymod_of_head?_zero hzero]
      exact ite_self _
  have hne : ¬ (plenOf pa s = 0 ∨ plenOf pb s = 0) := not_or.mpr ⟨hposa.ne', hposb.ne'⟩
  rw [if_neg hne]
  have hlena := length_polyOf pa s
  have hlenb := length_polyOf pb s
  have hnil : polyOf pa s ≠ [] := List.ne_nil_of_length_pos (hposa.trans_eq hlena.symm)
  obtain ⟨d, ds, hd⟩ := exists_cons_polyOf hposb
  rw [hd] at hhead hlenb ⊢
  have hd0 : d ≠ 0 := fun h0 => hhead (congrArg some h0)
  refine ⟨fun hdeg hz => by rw [polymod_of_zero_mem hd0 hz hdeg]; rfl,
    fun hdeg => by rw [polymod_of_deg_lt hd0 hdeg]; exact retire_setPoly pd _ s, fun hz => ?_⟩
  obtain ⟨r, hr, hdeg, hrem⟩ := polymod_spec (n := 257 - (d :: ds).length) hnil hz (by omega)
  obtain ⟨q, hq, hval⟩ := hrem.congruent
  refine ⟨r, hdeg, hrem.normalised, hrem.length_le.trans (hlena.trans_le ha), ⟨q, by omega, hval⟩, ?_⟩
  rw [hr]
  exact retire_setPoly pd r s

/-! ## RSGEN -/

/-- Settles O31. -/
theorem rsgenResult : Obligations.RsgenResult := by
  refine fun pd n hn => ⟨isOnlyWordOf_of_encode (decide_eq_true hn) (by simp [encode, encodeP]), rsgenpoly n,
    length_rsgenpoly n, head?_rsgenpoly n, polyEval_rsgenpoly n, fun s => ?_⟩
  rw [← length_rsgenpoly n]
  exact retire_setPoly pd (rsgenpoly n) s

end Sys2Proof.Machine
end

section
/-! PROOFS, Reed–Solomon family (1 of 3). Where the interleaved columns hold each entry of the blocks (O35). -/

namespace Sys2Proof.Machine

/-! ## Positions in the columns -/

/-- Entry `i` of the list of `j` stands in a concatenation behind the lists of the numbers below `j`. -/
theorem getElem?_flatMap_range {α : Type} (f : Nat → List α) {n j i : Nat} (hj : j < n) (hi : i < (f j).length) :
    ((List.range n).flatMap f)[((List.range j).map fun k => (f k).length).sum + i]? = (f j)[i]? := by
  obtain ⟨m, rfl⟩ : ∃ m, n = j + (m + 1) := ⟨n - j - 1, by omega⟩
  rw [List.range_add, List.flatMap_append, List.getElem?_append_right (by rw [List.length_flatMap]; omega),
    List.length_flatMap, Nat.add_sub_cancel_left, List.range_succ_eq_map, List.map_cons, List.flatMap_cons,
    List.getElem?_append_left (by simpa using hi), Nat.add_zero]

theorem length_column (bs : List (List Byte)) (j : Nat) :
    (column bs j).length = (bs.map List.length).countP (j < ·) := by
  induction bs with
  | nil => rfl
  | cons b bs ih => rw [length_column_cons, ih, List.map_cons, List.countP_cons, Nat.add_comm]; simp

/-- The columns before `j` hold the entries of each block below `j`. -/
theorem sum_length_column_lt (bs : List (List Byte)) (j : Nat) :
    ((List.range j).map fun k => (column bs k).length).sum = ((bs.map List.length).map (min j)).sum := by
  induction bs with
  | nil => simp [column]
  | cons b bs ih =>
    simp only [length_column_cons, List.sum_map_add, sum_range_lt, ih, List.map_cons, List.sum_cons, min_comm]

theorem getElem?_column {bs : List (List Byte)} {b : List Byte} {n j : Nat} (hb : bs[n]? = some b)
    (hj : j < b.length) : (column bs j)[((bs.map List.length).take n).countP (j < ·)]? = b[j]? := by
  have hc : b[j]? = some b[j] := List.getElem?_eq_getElem hj
  have hsplit : bs = bs.take n ++ b :: bs.drop (n + 1) := by
    obtain ⟨hn, rfl⟩ := List.getElem?_eq_some_iff.mp hb
    rw [List.getElem_cons_drop, List.take_append_drop]
  have hcol : column bs j = column (bs.take n) j ++ b[j] :: column (bs.drop (n + 1)) j := by
    conv_lhs => rw [hsplit]
    rw [column, List.filterMap_append, List.filterMap_cons_some (f := (·[j]?)) hc]
    rfl
  rw [← List.map_take, ← length_column, hcol, List.getElem?_append_right le_rfl, Nat.sub_self, hc]
  rfl

/-- The interleaved columns hold entry `j` of block `n` at its `columnPos` (R157). -/
theorem getElem?_columns {bs : List (List Byte)} {b : List Byte} {n j : Nat} (hb : bs[n]? = some b)
    (hj : j < b.length) : (columns bs)[columnPos (bs.map List.length) n j]? = b[j]? := by
  have hcol := getElem?_column hb hj
  have hmax : j < maxLength bs := hj.trans_le (length_le_maxLength (List.mem_of_getElem? hb))
  have hlt : ((bs.map List.length).take n).countP (j < ·) < (column bs j).length :=
    (List.getElem?_eq_some_iff.mp (hcol.trans (List.getElem?_eq_getElem hj))).1
  rw [columns, columnPos, ← sum_length_column_lt, getElem?_flatMap_range (column bs) hmax hlt, hcol]

/-! ## A row of short blocks followed by longer ones -/

/-- Where every list has the entries before `j`, the columns before `j` are full. -/
theorem columnPos_of_forall_le {ls : List Nat} {j : Nat} (h : ∀ l ∈ ls, j ≤ l) (n : Nat) :
    columnPos ls n j = j * ls.length + (ls.take n).countP (j < ·) := by
  rw [columnPos, List.map_congr_left fun l hl => Nat.min_eq_left (h l hl), List.map_const', List.sum_replicate,
    smul_eq_mul, Nat.mul_comm]

theorem columnPos_of_forall_lt {ls : List Nat} {n j : Nat} (h : ∀ l ∈ ls, j < l) (hn : n ≤ ls.length) :
    columnPos ls n j = j * ls.length + n := by
  rw [columnPos_of_forall_le (fun l hl => (h l hl).le),
    List.countP_eq_length.mpr fun l hl => decide_eq_true (h l (List.mem_of_mem_take hl)), List.length_take,
    Nat.min_eq_left hn]

/-- The last column of a row holds the last entries of its longer blocks only. -/
theorem columnPos_append {ks ls : List Nat} {n k : Nat} (hk : ∀ l ∈ ks, l = k) (hl : ∀ l ∈ ls, k < l)
    (hn : n ≤ ls.length) : columnPos (ks ++ ls) (ks.length + n) k = k * (ks.length + ls.length) + n := by
  have hle : ∀ l ∈ ks ++ ls, k ≤ l := fun l h =>
    (List.mem_append.mp h).elim (fun h => (hk l h).ge) fun h => (hl l h).le
  have hshort : ks.countP (k < ·) = 0 := List.countP_eq_zero.mpr fun l h => by simp [hk l h]
  have hlong : (ls.take n).countP (k < ·) = (ls.take n).length :=
    List.countP_eq_length.mpr fun l h => decide_eq_true (hl l (List.mem_of_mem_take h))
  rw [columnPos_of_forall_le hle, List.length_append, List.take_length_add_append, List.countP_append, hshort, hlong,
    List.length_take, Nat.min_eq_left hn, Nat.zero_add]

/-- Settles O35. -/
theorem interleaveColumns : Obligations.InterleaveColumns := by
  intro short long k hshort hlong
  have hks : ∀ l ∈ short.map List.length, l = k := by simpa using hshort
  have hls : ∀ l ∈ long.map List.length, l = k + 1 := by simpa using hlong
  refine ⟨?_, fun j n hj hn => ?_, fun n hn => ?_⟩
  · rw [length_columns, List.map_append, List.sum_append, List.eq_replicate_of_mem hks, List.eq_replicate_of_mem hls]
    simp only [List.sum_replicate, List.length_map, smul_eq_mul]
    ring
  · have hn' : n < (short ++ long).length := hn.trans_eq List.length_append.symm
    have hlt : ∀ b ∈ short ++ long, j < b.length := fun b hb =>
      (List.mem_append.mp hb).elim (fun h => (hshort b h).symm ▸ hj)
        fun h => (hlong b h).symm ▸ hj.trans k.lt_succ_self
    have hpos : columnPos ((short ++ long).map List.length) n j = j * (short.length + long.length) + n := by
      rw [columnPos_of_forall_lt (List.forall_mem_map.mpr hlt) (by rw [List.length_map]; exact hn'.le),
        List.length_map, List.length_append]
    rw [← hpos, getElem?_columns (List.getElem?_eq_getElem hn') (hlt _ (List.getElem_mem hn')),
      List.getD_eq_getElem _ _ hn']
  · have hlast : (short ++ long)[short.length + n]? = some long[n] := by
      rw [List.getElem?_append_right (Nat.le_add_right _ _), Nat.add_sub_cancel_left, List.getElem?_eq_getElem hn]
    have hpos : columnPos ((short ++ long).map List.length) (short.length + n) k =
        k * (short.length + long.length) + n := by
      have := columnPos_append (n := n) hks (fun l hl => (hls l hl).symm ▸ k.lt_succ_self) (by simpa using hn.le)
      simpa using this
    have hk : k < long[n].length := (hlong _ (List.getElem_mem hn)).symm ▸ k.lt_succ_self
    rw [← hpos, getElem?_columns hlast hk, List.getD_eq_getElem _ _ hn]

end Sys2Proof.Machine
end

section
/-! PROOFS, Reed–Solomon family (2 of 3). The block table's rows, the outcomes of RSENC, and which codeword of which
block stands where in CW (O32, O36, O59). -/

namespace Sys2Proof.Machine

/-! ## The block table -/

theorem data_le_total {v ec : Nat} (hv : 1 ≤ v) (hv' : v ≤ 40) (hec : ec < 4) {b : Nat × Nat}
    (hb : b ∈ rsBlocks v ec) : b.2 ≤ b.1 := by
  obtain ⟨g, hg, hgb⟩ := List.mem_flatMap.mp hb
  obtain ⟨-, hrow⟩ := blockRow_facts v (by omega) hv
  rw [List.eq_of_mem_replicate hgb]
  exact (hrow ec hec).2 g hg

theorem sum_total_rsBlocks {v ec : Nat} (hv : 1 ≤ v) (hv' : v ≤ 40) (hec : ec < 4) :
    ((rsBlocks v ec).map Prod.fst).sum = totalOf v := by
  obtain ⟨-, hrow⟩ := blockRow_facts v (by omega) hv
  rw [sum_map_fst_rsBlocks, (hrow ec hec).1]

set_option maxRecDepth 4000 in
/-- The groups of a row share one EC length, the shorter group first (R150). -/
theorem blockTable_groups : ∀ row ∈ blockTable, (row.map fun g => g.total - g.data).dedup.length = 1 ∧
    row.Pairwise fun g h => h.total = g.total + 1 := by decide

/-- Settles O36. -/
theorem blockTableTotals : Obligations.BlockTableTotals := by
  intro v hv ec hec
  have htotal := sum_total_rsBlocks (Nat.le_add_left 1 v) hv hec
  refine ⟨htotal, ?_, blockTable_groups _ (blockRow_mem hv hec)⟩
  rw [capacity, ← List.sum_map_add, ← htotal]
  exact congrArg List.sum
    (List.map_congr_left fun b hb => Nat.add_sub_cancel' (data_le_total (Nat.le_add_left 1 v) hv hec hb))

/-! ## The outcomes of RSENC -/

section
variable {s : State}

theorem exec_rsenc_of_illegal (h : ¬ legalVersion (versionOf s) = true) :
    exec .rsenc s = raise .invalidParameter s :=
  if_pos (by simpa using h)

theorem exec_rsenc_of_legal (h : legalVersion (versionOf s) = true) : exec .rsenc s =
    if capacity (versionOf s) s.ec.toNat < s.dlen.toNat then raise .dataOverflow s
    else if s.dlen.toNat < capacity (versionOf s) s.ec.toNat then raise .invalidData s
    else
      let stream := rsStream (versionOf s) s.ec.toNat (readBytes dataBase s.dlen.toNat s)
      retire { writeBytes cwBase stream s with cwlen := BitVec.ofNat 13 stream.length } :=
  if_neg (by simpa using h)

theorem exec_rsenc_of_full (h : legalVersion (versionOf s) = true)
    (hfull : s.dlen.toNat = capacity (versionOf s) s.ec.toNat) : exec .rsenc s =
    let data := readBytes dataBase (capacity (versionOf s) s.ec.toNat) s
    retire { writeBytes cwBase (rsStream (versionOf s) s.ec.toNat data) s with
      cwlen := BitVec.ofNat 13 (totalOf (versionOf s)) } := by
  rw [exec_rsenc_of_legal h, hfull, if_neg (lt_irrefl _), if_neg (lt_irrefl _),
    ← (length_rsStream h s.ec.isLt (length_readBytes dataBase _ s)).1]

end

/-- Settles O32. -/
theorem rsencResult : Obligations.RsencResult := by
  refine ⟨isOnlyWordOf_of_encode rfl rfl, fun s => ?_⟩
  have hlegal := legalVersion_iff (versionOf s)
  refine ⟨fun (hv : versionOf s = 0 ∨ 40 < versionOf s) => exec_rsenc_of_illegal (hlegal.not.mpr (by omega)),
    fun h1 h40 => ?_⟩
  have hv := hlegal.mpr ⟨h1, h40⟩
  exact ⟨fun hover => (exec_rsenc_of_legal hv).trans (if_pos hover),
    fun hunder => (exec_rsenc_of_legal hv).trans ((if_neg (Nat.lt_asymm hunder)).trans (if_pos hunder)),
    fun hfull => ⟨(length_rsStream hv s.ec.isLt (length_readBytes dataBase _ s)).1, exec_rsenc_of_full hv hfull⟩⟩

/-! ## The blocks of RSENC -/

/-- Block `n` is the next codewords after those of the blocks before it (R156). -/
theorem getElem?_partition {ns : List Nat} {n k : Nat} (h : ns[n]? = some k) (l : List Byte) :
    (partition ns l)[n]? = some ((l.drop (ns.take n).sum).take k) := by
  induction ns generalizing n l with
  | nil => cases h
  | cons m ns ih =>
    cases n with
    | zero => cases h; rfl
    | succ n => rw [partition, List.getElem?_cons_succ, ih h, List.drop_drop, List.take_succ_cons, List.sum_cons]

/-- A part of the entries read is the entries read from there. -/
theorem take_drop_readBytes {i k n : Nat} (h : i + k ≤ n) (a : Nat) (s : State) :
    ((readBytes a n s).drop i).take k = readBytes (a + i) k s := by
  refine List.ext_getElem (by simp [length_readBytes]; omega) fun j h1 h2 => ?_
  simp [readBytes, Nat.add_assoc]

/-- Where block `n` begins in DATA: behind the data codewords of the blocks before it (R156). -/
def blockStart (v ec n : Nat) : Nat := (((rsBlocks v ec).take n).map Prod.snd).sum

section
variable {v ec n total data : Nat} (h : (rsBlocks v ec)[n]? = some (total, data)) (a : Nat) (s : State)
include h

theorem blockStart_add_le_capacity : blockStart v ec n + data ≤ capacity v ec := by
  have hpart : ((rsBlocks v ec).take (n + 1)).Sublist (rsBlocks v ec) := List.take_sublist _ _
  have := (hpart.map Prod.snd).sum_le_sum fun _ _ => Nat.zero_le _
  rwa [List.take_add_one, h, Option.toList_some, List.map_append, List.sum_append, List.map_singleton,
    List.sum_singleton] at this

theorem getElem?_dataBlocks : (dataBlocks v ec (readBytes a (capacity v ec) s))[n]? =
    some (readBytes (a + blockStart v ec n) data s) := by
  have hlen : ((rsBlocks v ec).map Prod.snd)[n]? = some data := by rw [List.getElem?_map, h]; rfl
  rw [dataBlocks, getElem?_partition hlen, ← List.map_take, ← blockStart,
    take_drop_readBytes (blockStart_add_le_capacity h)]

theorem getElem?_ecBlocks : (ecBlocks v ec (readBytes a (capacity v ec) s))[n]? =
    some (ecblock (readBytes (a + blockStart v ec n) data s) (total - data)) := by
  rw [ecBlocks, List.getElem?_zipWith, h, getElem?_dataBlocks h]

/-- Data codeword `j` of block `n` in the stream (R157). -/
theorem getElem?_rsStream_data {j : Nat} (hj : j < data) :
    (rsStream v ec (readBytes a (capacity v ec) s))[columnPos ((rsBlocks v ec).map Prod.snd) n j]? =
      some (readByte (a + blockStart v ec n + j) s) := by
  have hget : (readBytes (a + blockStart v ec n) data s)[j]? = some (readByte (a + blockStart v ec n + j) s) := by
    simp [readBytes, hj]
  have hpos := getElem?_columns (getElem?_dataBlocks h a s) (hj.trans_eq (length_readBytes _ _ s).symm)
  rw [map_length_dataBlocks (length_readBytes a _ s), hget] at hpos
  rw [rsStream, interleave, List.getElem?_append_left (List.getElem?_eq_some_iff.mp hpos).1, hpos]

/-- EC codeword `j` of block `n` in the stream, whose EC columns follow all data codewords (R157). -/
theorem getElem?_rsStream_ec {j : Nat} (hj : j < total - data) :
    (rsStream v ec (readBytes a (capacity v ec) s))[
        capacity v ec + columnPos ((rsBlocks v ec).map fun b => b.1 - b.2) n j]? =
      some ((ecblock (readBytes (a + blockStart v ec n) data s) (total - data)).getD j 0) := by
  have hdata : (columns (dataBlocks v ec (readBytes a (capacity v ec) s))).length = capacity v ec := by
    rw [length_columns, map_length_dataBlocks (length_readBytes a _ s), capacity]
  have hj' : j < (ecblock (readBytes (a + blockStart v ec n) data s) (total - data)).length :=
    hj.trans_eq (length_ecblock _ _).symm
  rw [rsStream, interleave, List.getElem?_append_right (by rw [hdata]; exact Nat.le_add_right _ _), hdata,
    Nat.add_sub_cancel_left, ← map_length_ecBlocks v ec (readBytes a (capacity v ec) s),
    getElem?_columns (getElem?_ecBlocks h a s) hj', List.getElem?_eq_getElem hj', List.getD_eq_getElem _ _ hj']

end

/-- A stored codeword is read back from CW. -/
theorem readByte_writeBytes_add {l : List Byte} {i : Nat} {c : Byte} (h : l[i]? = some c) (a : Nat) (s : State) :
    readByte (a + i) (writeBytes a l s) = c := by
  rw [readByte_writeBytes, if_pos (Nat.le_add_right a i), Nat.add_sub_cancel_left, h, Option.getD_some]

/-- Settles O59. -/
theorem rsencCodewordPositions : Obligations.RsencCodewordPositions := by
  refine fun s hv hfull => ⟨_, exec_rsenc_of_full hv hfull, fun n total data hb =>
    ⟨fun j hj => ?_, fun j hj => ?_⟩⟩
  · exact readByte_writeBytes_add (getElem?_rsStream_data hb dataBase s hj) cwBase s
  · rw [hfull, Nat.add_assoc]
    exact readByte_writeBytes_add (getElem?_rsStream_ec hb dataBase s hj) cwBase s

end Sys2Proof.Machine
end

section
/-! PROOFS, Reed–Solomon family (3 of 3). The EC codewords of a block through PNORM, RSGEN and PMOD (O34). -/

namespace Sys2Proof.Machine

/-! ## Polynomial registers after a write of one -/

theorem polyOf_setPoly_self (p : Fin 4) {l : List Byte} (h : l.length ≤ 256) (s : State) :
    polyOf p (setPoly p l s) = l := by
  rw [polyOf, plenOf_setPoly p l s (by omega)]
  exact readBytes_writeBytes (prAddr p 0) l s

theorem plenOf_setPoly_of_ne {p q : Fin 4} (hpq : p ≠ q) (l : List Byte) (s : State) :
    plenOf q (setPoly p l s) = plenOf q s := congrArg BitVec.toNat (get_set_ne _ p q _ hpq)

/-- Polynomials that fit their registers do not overlap (R44, R132). -/
theorem polyOf_setPoly_of_ne {p q : Fin 4} (hpq : p ≠ q) {l : List Byte} {s : State} (hl : l.length ≤ 256)
    (hq : plenOf q s ≤ 256) : polyOf q (setPoly p l s) = polyOf q s := by
  rw [polyOf, polyOf, plenOf_setPoly_of_ne hpq]
  refine List.map_congr_left fun i hi => readByte_writeBytes_outside s ?_
  have hne : p.val ≠ q.val := Fin.val_ne_of_ne hpq
  have := List.mem_range.mp hi
  unfold prAddr
  omega

/-! ## The three commands -/

theorem length_pnormPoly_le {a : List Byte} (h : a ≠ []) (shift : Nat) :
    (pnormPoly a shift).length ≤ a.length + shift := by
  have hstrip := length_strip_le h
  have hpos := List.length_pos_iff.mpr h
  rw [pnormPoly]
  split
  · exact Nat.le_add_right_of_le hpos
  · rw [List.length_append, zeros, List.length_replicate]
    omega

/-- The division by a generator RSENC uses ends without a fault. -/
theorem exists_polymod_rsgenpoly {a : List Byte} (ha : a ≠ []) {e : Nat} (he : e ≤ 30) :
    ∃ r, polymod a (rsgenpoly e) = some r := by
  obtain ⟨g, hg⟩ : ∃ g, rsgenpoly e = 1 :: g := List.head?_eq_some_iff.mp (head?_rsgenpoly e)
  have hz : 0 ∉ 1 :: g := hg ▸ zero_not_mem_rsgenpoly e (Nat.lt_succ_of_le he)
  obtain ⟨r, hr, -⟩ := polymod_spec ha hz (Nat.le_add_right _ _)
  exact ⟨r, hg ▸ hr⟩

theorem exec_pnorm_of_shifted_fits (pd : Fin 4) {pa : Fin 4} {shift : Nat} {s : State} (hpos : 0 < plenOf pa s)
    (hfit : plenOf pa s + shift ≤ 256) :
    exec (.pnorm pd pa shift) s = retire (setPoly pd (pnormPoly (polyOf pa s) shift) s) ∧
      (pnormPoly (polyOf pa s) shift).length ≤ 256 := by
  have hlen : (pnormPoly (polyOf pa s) shift).length ≤ 256 := by
    refine (length_pnormPoly_le (List.ne_nil_of_length_pos ?_) shift).trans ?_ <;> rwa [length_polyOf]
  exact ⟨by rw [exec_pnorm_of_fits pd pa shift (by omega), if_neg hpos.ne', if_neg (not_lt.mpr hlen)], hlen⟩

theorem exec_pmod_of_polymod (pd : Fin 4) {pa pb : Fin 4} {s : State} {a b r : List Byte} (ha : polyOf pa s = a)
    (hb : polyOf pb s = b) (ha0 : a ≠ []) (hb0 : b ≠ []) (hla : a.length ≤ 256) (hlb : b.length ≤ 256)
    (hr : polymod a b = some r) : exec (.pmod pd pa pb) s = retire (setPoly pd r s) := by
  subst ha hb
  rw [← List.length_pos_iff, length_polyOf] at ha0 hb0
  rw [length_polyOf] at hla hlb
  rw [exec_pmod_of_fits pd hla hlb, if_neg (not_or.mpr ⟨ha0.ne', hb0.ne'⟩), hr]
  rfl

/-- Settles O34. -/
theorem rsencAgreesWithPolynomialCommands : Obligations.RsencAgreesWithPolynomialCommands := by
  intro s pa pn pg pr e hne he hpos hfit
  obtain ⟨hnorm, hla⟩ := exec_pnorm_of_shifted_fits pn hpos hfit
  generalize ha : pnormPoly (polyOf pa s) e = a at hnorm hla
  have ha0 : a ≠ [] := ha ▸ pnormPoly_ne_nil _ _
  have hlg : (rsgenpoly e).length ≤ 256 := by rw [length_rsgenpoly]; omega
  have hg0 : rsgenpoly e ≠ [] := List.ne_nil_of_length_pos (by rw [length_rsgenpoly]; omega)
  obtain ⟨r, hr⟩ := exists_polymod_rsgenpoly ha0 he
  let s1 := complete (setPoly pn a s)
  let s2 := complete (setPoly pg (rsgenpoly e) s1)
  have hs1 : polyOf pn s1 = a := polyOf_setPoly_self pn hla s
  have hn : polyOf pn s2 = a :=
    (polyOf_setPoly_of_ne hne.symm hlg (by rw [← length_polyOf, hs1]; exact hla)).trans hs1
  have hg : polyOf pg s2 = rsgenpoly e := polyOf_setPoly_self pg hlg s1
  have hlr : r.length ≤ 256 := (length_polymod_le ha0 hr).trans hla
  have hs3 : polyOf pr (complete (setPoly pr r s2)) = r := polyOf_setPoly_self pr hlr s2
  refine ⟨s1, s2, _, hnorm, rfl, exec_pmod_of_polymod pr hn hg ha0 hg0 hla hlg hr, ?_⟩
  simp only [hs3, ecblock, ha, hr, Option.getD_some]

end Sys2Proof.Machine
end

section
/-! PROOFS, BCH family. The binary remainder (R170) as a division of polynomials over GF(2), the systematic words it
gives, and the commands and tables built on them (O37 to O40). -/

namespace Sys2Proof.Machine

open Sys2Proof.Encoding

/-! ## The length of a binary number -/

theorem bitlen_le_iff {y n : Nat} : bitlen y ≤ n ↔ y < 2 ^ n := by
  rw [bitlen]
  split
  case isTrue h => simp [h]
  case isFalse h => rw [← Nat.log2_lt h, Nat.succ_le_iff]

theorem lt_bitlen_iff {y n : Nat} : n < bitlen y ↔ 2 ^ n ≤ y := by
  rw [← not_le, bitlen_le_iff, not_lt]

theorem bitlen_pos {g : Nat} (hg : 0 < g) : 0 < bitlen g := lt_bitlen_iff.mpr hg

theorem bitlen_eq_succ_iff {y m : Nat} : bitlen y = m + 1 ↔ y / 2 ^ m = 1 := by
  rw [le_antisymm_iff, Nat.succ_le_iff, bitlen_le_iff, lt_bitlen_iff, Nat.div_eq_iff (Nat.two_pow_pos m), Nat.pow_succ]
  have := Nat.two_pow_pos m
  omega

theorem bitlen_shiftLeft {g : Nat} (hg : 0 < g) (k : Nat) : bitlen (g <<< k) = bitlen g + k := by
  obtain ⟨m, hm⟩ := Nat.exists_eq_succ_of_ne_zero (bitlen_pos hg).ne'
  rw [hm, Nat.succ_add, bitlen_eq_succ_iff, Nat.shiftLeft_eq, Nat.pow_add,
    Nat.mul_div_mul_right _ _ (Nat.two_pow_pos k)]
  exact bitlen_eq_succ_iff.mp hm

/-- Numbers of one length agree in their highest bit, so their difference is shorter. -/
theorem bitlen_xor_lt {x y : Nat} (hx : 0 < bitlen x) (h : bitlen y = bitlen x) : bitlen (x ^^^ y) < bitlen x := by
  obtain ⟨m, hm⟩ := Nat.exists_eq_succ_of_ne_zero hx.ne'
  have hdiv : (x ^^^ y) / 2 ^ m = 0 := by
    rw [Nat.xor_div_two_pow, bitlen_eq_succ_iff.mp hm, bitlen_eq_succ_iff.mp (h.trans hm)]
    rfl
  rw [hm, Nat.lt_succ_iff, bitlen_le_iff]
  exact Nat.lt_of_div_eq_zero (Nat.two_pow_pos m) hdiv

/-! ## Multiples over GF(2) -/

@[simp] theorem clmul_zero (a n : Nat) : clmul a n 0 = 0 := by
  induction n generalizing a with
  | zero => rfl
  | succ n ih => simp [clmul, ih]

theorem clmul_two_pow (a : Nat) {k n : Nat} (h : k < n) : clmul a n (2 ^ k) = a <<< k := by
  induction n generalizing a k with
  | zero => exact absurd h (Nat.not_lt_zero k)
  | succ n ih =>
    cases k with
    | zero => simp [clmul]
    | succ k =>
      rw [clmul, Nat.pow_succ, Nat.mul_mod_left, Nat.mul_div_cancel _ two_pos, ih _ (Nat.lt_of_succ_lt_succ h),
        Nat.shiftLeft_succ_inside]
      simp

theorem clmul_xor (a n b c : Nat) : clmul a n (b ^^^ c) = clmul a n b ^^^ clmul a n c := by
  induction n generalizing a b c with
  | zero => simp [clmul]
  | succ n ih =>
    have hbit : (if (b ^^^ c) % 2 = 1 then a else 0) = (if b % 2 = 1 then a else 0) ^^^ if c % 2 = 1 then a else 0 := by
      rcases Nat.mod_two_eq_zero_or_one b with hb | hb <;> rcases Nat.mod_two_eq_zero_or_one c with hc | hc <;>
        simp [Nat.xor_mod_two_eq, Nat.add_mod, hb, hc]
    rw [clmul, clmul, clmul, hbit, Nat.xor_div_two, ih]
    ac_rfl

/-! ## The binary remainder -/

/-- The dividend's own test is for free: a number at least as long as the divisor is not 0. -/
theorem bchremLoop_succ {g : Nat} (hg : 0 < g) (fuel x : Nat) : bchremLoop g (fuel + 1) x =
    if bitlen g ≤ bitlen x then bchremLoop g fuel (x ^^^ (g <<< (bitlen x - bitlen g))) else x := by
  have hne : bitlen g ≤ bitlen x → x ≠ 0 := by
    rintro h rfl
    exact absurd (bitlen_pos hg) (not_lt.mpr h)
  simp only [bchremLoop, ge_iff_le, and_iff_right_of_imp hne]

/-- One iteration of R170 shortens the dividend. -/
theorem bitlen_reduce_lt {g x : Nat} (hg : 0 < g) (h : bitlen g ≤ bitlen x) :
    bitlen (x ^^^ (g <<< (bitlen x - bitlen g))) < bitlen x :=
  bitlen_xor_lt ((bitlen_pos hg).trans_le h) (by rw [bitlen_shiftLeft hg, Nat.add_sub_cancel' h])

theorem bitlen_bchremLoop_lt {g : Nat} (hg : 0 < g) {fuel x : Nat} (hx : bitlen x ≤ fuel) :
    bitlen (bchremLoop g fuel x) < bitlen g := by
  induction fuel generalizing x with
  | zero => exact hx.trans_lt (bitlen_pos hg)
  | succ fuel ih =>
    rw [bchremLoop_succ hg]
    split
    case isTrue h => exact ih (Nat.le_of_lt_succ ((bitlen_reduce_lt hg h).trans_le hx))
    case isFalse h => exact not_le.mp h

/-- The loop subtracts a multiple of the divisor, whose factor is as short as the lengths allow. -/
theorem exists_clmul_xor_bchremLoop {g : Nat} (hg : 0 < g) {n x : Nat} (hx : bitlen x < bitlen g + n) (fuel : Nat) :
    ∃ q < 2 ^ n, x = clmul g n q ^^^ bchremLoop g fuel x := by
  induction fuel generalizing x with
  | zero => exact ⟨0, Nat.two_pow_pos n, by rw [clmul_zero, Nat.zero_xor, bchremLoop]⟩
  | succ fuel ih =>
    rw [bchremLoop_succ hg]
    split
    case isFalse => exact ⟨0, Nat.two_pow_pos n, by rw [clmul_zero, Nat.zero_xor]⟩
    case isTrue h =>
      obtain ⟨q, hqn, hq⟩ := ih ((bitlen_reduce_lt hg h).trans hx)
      have hk : bitlen x - bitlen g < n := by omega
      refine ⟨2 ^ (bitlen x - bitlen g) ^^^ q, Nat.xor_lt_two_pow (Nat.pow_lt_pow_right one_lt_two hk) hqn, ?_⟩
      rw [clmul_xor, clmul_two_pow g hk, Nat.xor_assoc, ← hq, Nat.xor_comm x, Nat.xor_xor_cancel_left]

theorem bitlen_bchrem_lt {g : Nat} (hg : 0 < g) (x : Nat) : bitlen (bchrem x g) < bitlen g :=
  bitlen_bchremLoop_lt hg le_rfl

/-- Settles O39: an iteration shortens the dividend, so the loop's bound is enough, and subtracts a multiple of `g`. -/
theorem bchRemainder : Obligations.BchRemainder := fun x _ hg => by
  obtain ⟨q, -, hq⟩ := exists_clmul_xor_bchremLoop hg (Nat.lt_add_of_pos_left (bitlen_pos hg)) (bitlen x)
  exact ⟨bitlen_bchrem_lt hg x, bitlen x, q, hq⟩

/-! ## Systematic words -/

theorem shiftLeft_or_eq_xor {r k : Nat} (hr : r < 2 ^ k) (v : Nat) : v <<< k ||| r = v <<< k ^^^ r := by
  refine Nat.eq_of_testBit_eq fun i => ?_
  rw [Nat.testBit_or, Nat.testBit_xor, Nat.testBit_shiftLeft]
  rcases lt_or_ge i k with hi | hi
  · simp [not_le.mpr hi]
  · simp [Nat.testBit_lt_two_pow (hr.trans_le (Nat.pow_le_pow_right two_pos hi))]

/-- The data `v` followed by the remainder of `k` bits: the word of R176, and that of R171 before the XOR. -/
def systematicWord (g k v : Nat) : Nat := v <<< k ||| bchrem (v <<< k) g

theorem bch15_eq (d : Nat) : bch15 d = systematicWord 0x537 10 d ^^^ 0x5412 := rfl

theorem bch18_eq (v : Nat) : bch18 v = systematicWord 0x1F25 12 v := rfl

/-- For a generator `g` of degree `k`, the word of `n` data bits `v` is a multiple of `g` with `v` in its high bits. -/
theorem systematicWord_spec {g k : Nat} (hg : bitlen g = k + 1) {n v : Nat} (hv : v < 2 ^ n) :
    systematicWord g k v < 2 ^ (n + k) ∧ systematicWord g k v >>> k = v ∧
      ∃ q < 2 ^ n, systematicWord g k v = clmul g n q := by
  have hg0 : 0 < g := (Nat.two_pow_pos k).trans_le (lt_bitlen_iff.mp (hg ▸ Nat.lt_succ_self k))
  have hr : bchrem (v <<< k) g < 2 ^ k := bitlen_le_iff.mp (Nat.le_of_lt_succ ((bitlen_bchrem_lt hg0 _).trans_eq hg))
  have hlt : v <<< k < 2 ^ (n + k) := by
    rw [Nat.shiftLeft_eq, Nat.pow_add]
    exact Nat.mul_lt_mul_of_pos_right hv (Nat.two_pow_pos k)
  have hshort : bitlen (v <<< k) < bitlen g + n := by
    have := bitlen_le_iff.mpr hlt
    omega
  obtain ⟨q, hqn, hq⟩ := exists_clmul_xor_bchremLoop hg0 hshort (bitlen (v <<< k))
  refine ⟨Nat.or_lt_two_pow hlt (hr.trans_le (Nat.pow_le_pow_right two_pos (Nat.le_add_left k n))), ?_, q, hqn, ?_⟩
  · rw [systematicWord, Nat.shiftRight_or_distrib, Nat.shiftLeft_shiftRight, Nat.shiftRight_eq_zero _ _ hr, Nat.or_zero]
  · calc systematicWord g k v
      _ = v <<< k ^^^ bchrem (v <<< k) g := shiftLeft_or_eq_xor hr v
      _ = clmul g n q ^^^ bchrem (v <<< k) g ^^^ bchrem (v <<< k) g := congrArg (· ^^^ bchrem (v <<< k) g) hq
      _ = clmul g n q := Nat.xor_xor_cancel_right _ _

/-- The code is linear: two different words differ by a nonzero multiple of the generator. -/
theorem exists_systematicWord_xor {g k : Nat} (hg : bitlen g = k + 1) {n u v : Nat} (hu : u < 2 ^ n) (hv : v < 2 ^ n)
    (hne : u ≠ v) : ∃ q < 2 ^ n, q ≠ 0 ∧ systematicWord g k u ^^^ systematicWord g k v = clmul g n q := by
  obtain ⟨-, hu', p, hpn, hp⟩ := systematicWord_spec hg hu
  obtain ⟨-, hv', q, hqn, hq⟩ := systematicWord_spec hg hv
  refine ⟨p ^^^ q, Nat.xor_lt_two_pow hpn hqn, Nat.xor_ne_zero_iff.mpr ?_, by rw [hp, hq, clmul_xor]⟩
  rintro rfl
  exact hne (by rw [← hu', ← hv', hp, hq])

theorem bitlen_fmtGenerator : bitlen 0x537 = 10 + 1 := by decide

theorem bitlen_verGenerator : bitlen 0x1F25 = 12 + 1 := by decide

/-! ## The commands -/

theorem exec_bchfmt_of_small {rd ra : Fin 8} {s : State} (h : xNat ra s ≤ 31) :
    exec (.bchfmt rd ra) s = retire (setX rd (BitVec.ofNat 32 (bch15 (xNat ra s))) s) := if_neg (not_lt.mpr h)

theorem exec_bchver_of_small {rd ra : Fin 8} {s : State} (h : xNat ra s ≤ 63) :
    exec (.bchver rd ra) s = retire (setX rd (BitVec.ofNat 32 (bch18 (xNat ra s))) s) := if_neg (not_lt.mpr h)

theorem bch15_ne_zero : ∀ d < 32, bch15 d ≠ 0 := by decide

/-- Settles O37: the witness is the systematic word of the operand, whose XOR with the mask is `bch15`. -/
theorem bchfmtResult : Obligations.BchfmtResult := by
  refine fun rd ra => ⟨isOnlyWordOf_of_encode rfl (encodeR_zero 0x18 rd ra), fun s => ⟨fun h => if_pos h, fun h => ?_⟩⟩
  have hd : (s.x.get ra).toNat < 32 := Nat.lt_succ_of_le h
  obtain ⟨hlt, hhigh, q, -, hq⟩ := systematicWord_spec (n := 5) bitlen_fmtGenerator hd
  refine ⟨_, q, hlt, hhigh, hq, fun h0 => ?_, bch15_ne_zero _ hd, exec_bchfmt_of_small h⟩
  rw [h0]
  decide

/-- Settles O38: the witness is the systematic word of the operand, the range check giving its 6 bits. -/
theorem bchverResult : Obligations.BchverResult := by
  refine fun rd ra => ⟨isOnlyWordOf_of_encode rfl (encodeR_zero 0x19 rd ra), fun s => ⟨fun h => if_pos h, fun h => ?_⟩⟩
  obtain ⟨hlt, hhigh, q, -, hq⟩ := systematicWord_spec (n := 6) bitlen_verGenerator (Nat.lt_succ_of_le h)
  exact ⟨_, q, hlt, hhigh, hq, exec_bchver_of_small h⟩

/-! ## The tables -/

/-- The number of bits set among the 18 of a BCH word. -/
def weight (c : Nat) : Nat := (List.range 18).countP fun k => c.testBit k

theorem le_weight_fmtMultiple : ∀ q < 2 ^ 5, q ≠ 0 → 7 ≤ weight (clmul 0x537 5 q) := by decide

theorem le_weight_verMultiple : ∀ q < 2 ^ 6, q ≠ 0 → 8 ≤ weight (clmul 0x1F25 6 q) := by decide

/-- The mask of R171 does not change a distance. -/
theorem bch15_xor (d e : Nat) : bch15 d ^^^ bch15 e = systematicWord 0x537 10 d ^^^ systematicWord 0x537 10 e := by
  rw [bch15_eq, bch15_eq, ← Nat.xor_assoc, Nat.xor_right_comm _ 0x5412, Nat.xor_xor_cancel_right]

theorem le_weight_bch15_xor {d e : Nat} (hd : d < 32) (he : e < 32) (hne : d ≠ e) :
    7 ≤ weight (bch15 d ^^^ bch15 e) := by
  obtain ⟨q, hq, hq0, heq⟩ := exists_systematicWord_xor (n := 5) bitlen_fmtGenerator hd he hne
  rw [bch15_xor, heq]
  exact le_weight_fmtMultiple q hq hq0

theorem le_weight_bch18_xor {u v : Nat} (hu : u < 64) (hv : v < 64) (hne : u ≠ v) :
    8 ≤ weight (bch18 u ^^^ bch18 v) := by
  obtain ⟨q, hq, hq0, heq⟩ := exists_systematicWord_xor (n := 6) bitlen_verGenerator hu hv hne
  rw [bch18_eq, bch18_eq, heq]
  exact le_weight_verMultiple q hq hq0

/-- Settles O40: the code is linear, so its least distance is the least weight of a nonzero codeword. -/
theorem bchWordTables : Obligations.BchWordTables := by
  refine ⟨by decide, by decide, fun d hd e he => ?_, ⟨1, 0, by decide⟩, fun v hv u hu => ?_, 1, 0, by decide⟩
  · exact le_weight_bch15_xor hd (he.trans hd) he.ne'
  · exact le_weight_bch18_xor (by omega) (by omega) (by omega)

end Sys2Proof.Machine
end

section
/-! PROOFS, matrix family (1 of 3). The layers of the function patterns, one by one, and what they leave in each cell
(O43). -/

namespace Sys2Proof.Machine

/-! ## Format and version cells -/

/-- `(r, c)` is a format cell of an `n × n` matrix (R195). -/
def IsFmtCell (n r c : Nat) : Prop :=
  (c = 8 ∧ (r ≤ 5 ∨ r = 7 ∨ r = 8 ∨ (n - 7 ≤ r ∧ r < n))) ∨ (r = 8 ∧ (c ≤ 5 ∨ c = 7 ∨ (n - 8 ≤ c ∧ c < n)))

/-- The format bit the format cell `(r, c)` shows (R195). -/
def fmtBit (n r c : Nat) : Nat :=
  if c = 8 then if r ≤ 5 then r else if r ≤ 8 then r - 1 else r + 15 - n
  else if n - 8 ≤ c then n - 1 - c
  else if c = 7 then 8
  else 14 - c

/-- `(r, c)` is in one of the two version blocks of an `n × n` matrix (R197). -/
def IsVerCell (n r c : Nat) : Prop :=
  (r ≤ 5 ∧ n - 11 ≤ c ∧ c ≤ n - 9) ∨ (n - 11 ≤ r ∧ r ≤ n - 9 ∧ c ≤ 5)

/-- The version bit the version cell `(r, c)` shows (R197). -/
def verBit (n r c : Nat) : Nat := if r ≤ 5 then 3 * r + (c - (n - 11)) else 3 * c + (r - (n - 11))

theorem mem_fmtCells_iff {n i r c : Nat} (hn : 21 ≤ n) (hi : i < 15) :
    (r, c) ∈ fmtCells n i ↔ IsFmtCell n r c ∧ fmtBit n r c = i := by
  unfold fmtCells IsFmtCell fmtBit
  split_ifs <;> simp only [List.mem_cons, List.not_mem_nil, or_false, Prod.mk.injEq] <;> omega

theorem mem_verCells_iff {n i r c : Nat} (hn : 21 ≤ n) (hi : i < 18) :
    (r, c) ∈ verCells n i ↔ IsVerCell n r c ∧ verBit n r c = i := by
  unfold verCells IsVerCell verBit
  split_ifs <;> simp only [List.mem_cons, List.not_mem_nil, or_false, Prod.mk.injEq] <;> omega

theorem mem_allFmtCells_iff {n r c : Nat} (hn : 21 ≤ n) : (r, c) ∈ allFmtCells n ↔ IsFmtCell n r c := by
  have hbit : IsFmtCell n r c → fmtBit n r c < 15 := by
    unfold IsFmtCell fmtBit
    split_ifs <;> omega
  simp only [allFmtCells, List.mem_flatMap, List.mem_range]
  constructor
  · rintro ⟨i, hi, h⟩
    exact ((mem_fmtCells_iff hn hi).mp h).1
  · exact fun h => ⟨_, hbit h, (mem_fmtCells_iff hn (hbit h)).mpr ⟨h, rfl⟩⟩

theorem mem_allVerCells_iff {v r c : Nat} (hv : 1 ≤ v) :
    (r, c) ∈ allVerCells v ↔ 7 ≤ v ∧ IsVerCell (sideOf v) r c := by
  have hn : 21 ≤ sideOf v := by unfold sideOf; omega
  have hbit : IsVerCell (sideOf v) r c → verBit (sideOf v) r c < 18 := by
    unfold IsVerCell verBit
    split_ifs <;> omega
  rw [allVerCells]
  split
  case isFalse hv7 => simp [hv7]
  case isTrue hv7 =>
    simp only [List.mem_flatMap, List.mem_range, hv7, true_and]
    constructor
    · rintro ⟨i, hi, h⟩
      exact ((mem_verCells_iff hn hi).mp h).1
    · exact fun h => ⟨_, hbit h, (mem_verCells_iff hn (hbit h)).mpr ⟨h, rfl⟩⟩

/-! ## Overlaid layers -/

theorem foldl_overlay_eq_none {α : Type} {f : α → Option Shade} {l : List α} {a : Option Shade} :
    l.foldl (fun a x => overlay a (f x)) a = none ↔ a = none ∧ ∀ x ∈ l, f x = none := by
  induction l generalizing a with
  | nil => simp
  | cons x l ih => rw [List.foldl_cons, ih, overlay_eq_none, List.forall_mem_cons, and_assoc]

/-- Where one pattern of a layer answers and every other is silent, or answers the same, that is the layer's answer. -/
theorem foldl_overlay_eq_some {α : Type} {f : α → Option Shade} {l : List α} {a : Option Shade} {h : Shade}
    (hagree : ∀ x ∈ l, f x = none ∨ f x = some h) (hsome : a = some h ∨ ∃ x ∈ l, f x = some h) :
    l.foldl (fun a x => overlay a (f x)) a = some h := by
  induction l generalizing a with
  | nil => simpa using hsome
  | cons x l ih =>
    obtain ⟨hx, hl⟩ := List.forall_mem_cons.mp hagree
    refine ih hl ?_
    rcases hx with hx | hx
    · rw [List.exists_mem_cons_iff] at hsome
      simpa [hx, overlay] using hsome
    · simp [hx, overlay]

/-! ## Finders and timing -/

/-- `(r, c)` lies in the finder with origin `o` or in its separator (R191). -/
def NearFinder (o : Nat × Nat) (r c : Nat) : Prop := o.1 ≤ r + 1 ∧ r ≤ o.1 + 7 ∧ o.2 ≤ c + 1 ∧ c ≤ o.2 + 7

theorem finderAt_eq_none_iff {o : Nat × Nat} {r c : Nat} : finderAt o r c = none ↔ ¬ NearFinder o r c := by
  refine ⟨finderAt_eq_none, fun h => if_neg ?_⟩
  unfold NearFinder at h
  omega

theorem finderAt_inside (o : Nat × Nat) {dr dc : Nat} (hr : dr ≤ 6) (hc : dc ≤ 6) :
    finderAt o (o.1 + dr) (o.2 + dc) =
      some (shadeOf (dr = 0 ∨ dr = 6 ∨ dc = 0 ∨ dc = 6 ∨ (2 ≤ dr ∧ dr ≤ 4 ∧ 2 ≤ dc ∧ dc ≤ 4))) := by
  rw [finderAt, if_pos (by omega)]
  congr 3
  exact propext (by omega)

theorem finderAt_separator {o : Nat × Nat} {r c : Nat} (h : NearFinder o r c)
    (hs : r + 1 = o.1 ∨ r = o.1 + 7 ∨ c + 1 = o.2 ∨ c = o.2 + 7) : finderAt o r c = some .light := by
  unfold NearFinder at h
  rw [finderAt, if_pos (by omega), decide_eq_false (by omega)]
  rfl

theorem mem_finderOrigins {n : Nat} {o : Nat × Nat} :
    o ∈ finderOrigins n ↔ o = (0, 0) ∨ o = (n - 7, 0) ∨ o = (0, n - 7) := by simp [finderOrigins]

/-- The regions of the three finders do not meet. -/
theorem NearFinder.unique {n : Nat} (hn : 21 ≤ n) {o o' : Nat × Nat} (ho : o ∈ finderOrigins n)
    (ho' : o' ∈ finderOrigins n) {r c : Nat} (h : NearFinder o r c) (h' : NearFinder o' r c) : o' = o := by
  unfold NearFinder at h h'
  rw [mem_finderOrigins] at ho ho'
  rw [Prod.ext_iff]
  rcases ho with rfl | rfl | rfl <;> rcases ho' with rfl | rfl | rfl <;> dsimp only at * <;> omega

theorem finderLayer_eq_finderAt {n : Nat} (hn : 21 ≤ n) {o : Nat × Nat} (ho : o ∈ finderOrigins n) {r c : Nat}
    (h : NearFinder o r c) : finderLayer n r c = finderAt o r c := by
  obtain ⟨x, hx⟩ := Option.ne_none_iff_exists'.mp (mt finderAt_eq_none_iff.mp (not_not.mpr h))
  rw [hx]
  refine foldl_overlay_eq_some (fun o' ho' => ?_) (.inr ⟨o, ho, hx⟩)
  by_cases h' : NearFinder o' r c
  · exact .inr (h.unique hn ho ho' h' ▸ hx)
  · exact .inl (finderAt_eq_none_iff.mpr h')

theorem finderLayer_eq_none_iff {n r c : Nat} :
    finderLayer n r c = none ↔ ∀ o ∈ finderOrigins n, ¬ NearFinder o r c := by
  rw [finderLayer, foldl_overlay_eq_none]
  simp only [finderAt_eq_none_iff, true_and]

/-- `(r, c)` is in row 6 or column 6 between the finders (R192). -/
def IsTimingCell (n r c : Nat) : Prop := (r = 6 ∧ 8 ≤ c ∧ c ≤ n - 9) ∨ (c = 6 ∧ 8 ≤ r ∧ r ≤ n - 9)

theorem timingLayer_eq_some {n r c : Nat} (h : IsTimingCell n r c) :
    timingLayer n r c = some (shadeOf ((r + c) % 2 = 0)) := by
  unfold timingLayer
  rcases h with ⟨rfl, hc⟩ | ⟨rfl, hr⟩
  · rw [if_pos ⟨rfl, hc⟩, show (6 + c) % 2 = c % 2 by omega]
  · rw [if_neg (by omega), if_pos ⟨rfl, hr⟩, show (r + 6) % 2 = r % 2 by omega]

theorem timingLayer_eq_none_iff {n r c : Nat} : timingLayer n r c = none ↔ ¬ IsTimingCell n r c := by
  refine ⟨fun h ht => Option.some_ne_none _ ((timingLayer_eq_some ht).symm.trans h), fun h => ?_⟩
  obtain ⟨hrow, hcol⟩ := not_or.mp h
  rw [timingLayer, if_neg hrow, if_neg hcol]

/-! ## Alignment patterns -/

/-- `(r, c)` lies in the 5×5 pattern centred at `(ar, ac)` (R194). -/
def NearCentre (ar ac r c : Nat) : Prop := ar ≤ r + 2 ∧ r ≤ ar + 2 ∧ ac ≤ c + 2 ∧ c ≤ ac + 2

/-- Where a version's alignment coordinates lie (R193): all even, and none but the first and the last near an edge. -/
theorem alignPositions_range : ∀ v ≤ 40, ∀ a ∈ alignPositions v,
    a % 2 = 0 ∧ 25 ≤ sideOf v ∧ (a = 6 ∨ a = sideOf v - 7 ∨ (22 ≤ a ∧ a + 23 ≤ sideOf v)) := by decide

/-- Two alignment coordinates of a version are a pattern's width apart (R193). -/
theorem alignPositions_apart : ∀ v ≤ 40, ∀ a ∈ alignPositions v, ∀ b ∈ alignPositions v,
    a ≠ b → a + 5 ≤ b ∨ b + 5 ≤ a := by decide

theorem inFinder_eq_false_iff {n ar ac : Nat} : inFinder n ar ac = false ↔
    ¬ (ar ≤ 6 ∧ ac ≤ 6) ∧ ¬ (n - 7 ≤ ar ∧ ar ≤ n - 7 + 6 ∧ ac ≤ 6) ∧ ¬ (ar ≤ 6 ∧ n - 7 ≤ ac ∧ ac ≤ n - 7 + 6) := by
  simp [inFinder, finderOrigins]

/-- The centres not in a finder are the drawn ones: the three in a finder are those the spec names (R194). -/
theorem mem_alignCentres_iff {v ar ac : Nat} (hv : v ≤ 40) : (ar, ac) ∈ alignCentres v ↔ isDrawnCentre v ar ac := by
  have hmem : (ar, ac) ∈ alignCentres v ↔
      (ar ∈ alignPositions v ∧ ac ∈ alignPositions v) ∧ inFinder (sideOf v) ar ac = false := by
    simp [alignCentres]
  rw [hmem, isDrawnCentre, inFinder_eq_false_iff, and_assoc]
  refine and_congr_right fun har => and_congr_right fun hac => ?_
  obtain ⟨-, hn, har⟩ := alignPositions_range v hv ar har
  obtain ⟨-, -, hac⟩ := alignPositions_range v hv ac hac
  simp only [ne_eq, Prod.mk.injEq]
  omega

theorem alignAt_eq_none_iff {ar ac r c : Nat} : alignAt ar ac r c = none ↔ ¬ NearCentre ar ac r c := by
  simp only [alignAt, NearCentre]
  split_ifs with h
  · exact iff_of_false not_false (not_not.mpr (by omega))
  · exact iff_of_true rfl (by omega)

theorem alignAt_inside {ar ac dr dc : Nat} (har : 2 ≤ ar) (hac : 2 ≤ ac) (hr : dr ≤ 4) (hc : dc ≤ 4) :
    alignAt ar ac (ar + dr - 2) (ac + dc - 2) =
      some (shadeOf (dr = 0 ∨ dr = 4 ∨ dc = 0 ∨ dc = 4 ∨ (dr = 2 ∧ dc = 2))) := by
  rw [alignAt, if_pos (by omega)]
  congr 3
  exact propext (by omega)

/-- Through its centre, row and column, an alignment pattern alternates as the timing patterns do. -/
theorem alignAt_through_centre {ar ac r c : Nat} (har : ar % 2 = 0) (hac : ac % 2 = 0) (h : NearCentre ar ac r c)
    (hrc : r = ar ∨ c = ac) : alignAt ar ac r c = some (shadeOf ((r + c) % 2 = 0)) := by
  unfold NearCentre at h
  rw [alignAt, if_pos (by omega)]
  congr 3
  exact propext (by omega)

theorem alignLayer_eq_none_iff {v r c : Nat} (hv : v ≤ 40) :
    alignLayer v r c = none ↔ ∀ ar ac, isDrawnCentre v ar ac → ¬ NearCentre ar ac r c := by
  rw [alignLayer, foldl_overlay_eq_none (f := fun p : Nat × Nat => alignAt p.1 p.2 r c)]
  simp only [alignAt_eq_none_iff, true_and, Prod.forall, mem_alignCentres_iff hv]

/-- No other pattern of the version reaches into the one centred at `(ar, ac)`. -/
theorem alignLayer_eq_alignAt {v ar ac r c : Nat} (hv : v ≤ 40) (h : isDrawnCentre v ar ac)
    (hnear : NearCentre ar ac r c) : alignLayer v r c = alignAt ar ac r c := by
  obtain ⟨x, hx⟩ := Option.ne_none_iff_exists'.mp (mt alignAt_eq_none_iff.mp (not_not.mpr hnear))
  rw [hx]
  refine foldl_overlay_eq_some (f := fun p : Nat × Nat => alignAt p.1 p.2 r c) (fun p hp => ?_)
    (.inr ⟨(ar, ac), (mem_alignCentres_iff hv).mpr h, hx⟩)
  obtain ⟨br, bc⟩ := p
  by_cases hnear' : NearCentre br bc r c
  · obtain ⟨hbr, hbc, -⟩ := (mem_alignCentres_iff hv).mp hp
    obtain ⟨har, hac, -⟩ := h
    have hrow := alignPositions_apart v hv ar har br hbr
    have hcol := alignPositions_apart v hv ac hac bc hbc
    unfold NearCentre at hnear hnear'
    obtain rfl : ar = br := by omega
    obtain rfl : ac = bc := by omega
    exact .inr hx
  · exact .inl (alignAt_eq_none_iff.mpr hnear')

/-- A drawn alignment pattern lies inside the matrix and meets none of the three corners. -/
theorem NearCentre.clear_of_corners {v ar ac r c : Nat} (hv : v ≤ 40) (h : isDrawnCentre v ar ac)
    (hnear : NearCentre ar ac r c) : r < sideOf v ∧ c < sideOf v ∧
      ¬ (r ≤ 8 ∧ c ≤ 8) ∧ ¬ (r ≤ 8 ∧ sideOf v - 11 ≤ c) ∧ ¬ (sideOf v - 11 ≤ r ∧ c ≤ 8) := by
  obtain ⟨har, hac, h1, h2, h3⟩ := h
  obtain ⟨-, hn, har⟩ := alignPositions_range v hv ar har
  obtain ⟨-, -, hac⟩ := alignPositions_range v hv ac hac
  simp only [ne_eq, Prod.mk.injEq] at h1 h2 h3
  unfold NearCentre at hnear
  omega

/-! ## The layers together (R200) -/

/-- `(r, c)` is no format cell, not the dark module and no version cell. -/
def NoInfo (v r c : Nat) : Prop :=
  (r, c) ∉ allFmtCells (sideOf v) ∧ (r, c) ≠ darkModule (sideOf v) ∧ (r, c) ∉ allVerCells v

theorem noInfo_iff {v r c : Nat} (hv : 1 ≤ v) : NoInfo v r c ↔
    ¬ IsFmtCell (sideOf v) r c ∧ ¬ (r = sideOf v - 8 ∧ c = 8) ∧ ¬ (7 ≤ v ∧ IsVerCell (sideOf v) r c) := by
  rw [NoInfo, mem_allFmtCells_iff (by unfold sideOf; omega), mem_allVerCells_iff hv, darkModule, ne_eq, Prod.mk.injEq]

/-- The layers below the format, version and dark-module cells. -/
theorem funcShade_of_noInfo {v r c : Nat} (h : NoInfo v r c) : funcShade v r c =
    overlay (if finderLayer (sideOf v) r c = none then timingLayer (sideOf v) r c else finderLayer (sideOf v) r c)
      (alignLayer v r c) := by
  obtain ⟨hfmt, hdark, hver⟩ := h
  rw [funcShade, if_neg hver, if_neg hdark, if_neg hfmt]

theorem funcShade_eq_none_iff {v r c : Nat} : funcShade v r c = none ↔
    finderLayer (sideOf v) r c = none ∧ timingLayer (sideOf v) r c = none ∧ alignLayer v r c = none ∧ NoInfo v r c := by
  by_cases h : NoInfo v r c
  · rw [funcShade_of_noInfo h, overlay_eq_none]
    split_ifs with hf <;> simp [hf, h]
  · refine iff_of_false (fun hn => h ?_) fun ⟨_, _, _, hn⟩ => h hn
    simp only [funcShade] at hn
    split_ifs at hn with hver hdark hfmt
    all_goals exact ⟨hfmt, hdark, hver⟩

theorem funcCell_of_funcShade {v r c : Nat} {h : Shade} (hs : funcShade v r c = some h) :
    funcCell v r c = ⟨h, true⟩ := by
  rw [funcCell, hs]

theorem func_funcCell_iff {v r c : Nat} : (funcCell v r c).func = true ↔ funcShade v r c ≠ none := by
  unfold funcCell
  split
  next hs => simp [hs]
  next hs => simp [hs, MCell.blank]

/-- Where the function patterns hold a cell, in a version's matrix. -/
theorem cell_buildfunc_of_funcShade {v r c : Nat} {h : Shade} (hr : r < sideOf v) (hc : c < sideOf v)
    (hs : funcShade v r c = some h) : (buildfunc v).cell r c = ⟨h, true⟩ := by
  rw [cell_buildfunc, if_pos ⟨hr, hc⟩, funcCell_of_funcShade hs]

section
variable {v : Nat} (hv1 : 1 ≤ v) (hv40 : v ≤ 40)
include hv1

theorem sideOf_ge : 21 ≤ sideOf v := by unfold sideOf; omega

theorem funcShade_fmtCell {r c : Nat} (h : IsFmtCell (sideOf v) r c) : funcShade v r c = some .light := by
  have hn := sideOf_ge hv1
  have hdark : (r, c) ≠ darkModule (sideOf v) := by
    unfold IsFmtCell at h
    simp only [darkModule, ne_eq, Prod.mk.injEq]
    omega
  simp only [funcShade, if_neg hdark, if_pos ((mem_allFmtCells_iff hn).mpr h), ite_self]

theorem funcShade_verCell {r c : Nat} (hv7 : 7 ≤ v) (h : IsVerCell (sideOf v) r c) : funcShade v r c = some .light :=
  if_pos ((mem_allVerCells_iff hv1).mpr ⟨hv7, h⟩)

theorem isInfoCell_darkModule : isInfoCell v (sideOf v - 8) 8 = false := by
  have hn := sideOf_ge hv1
  rw [isInfoCell_eq_false, mem_allFmtCells_iff hn, mem_allVerCells_iff hv1]
  unfold IsFmtCell IsVerCell
  omega

include hv40

theorem funcShade_nearFinder {o : Nat × Nat} (ho : o ∈ finderOrigins (sideOf v)) {r c : Nat} (h : NearFinder o r c)
    (hr : r < sideOf v) (hc : c < sideOf v) : funcShade v r c = finderAt o r c := by
  have hn := sideOf_ge hv1
  have hcorner : (r ≤ 7 ∧ c ≤ 7) ∨ (sideOf v - 8 ≤ r ∧ c ≤ 7) ∨ (r ≤ 7 ∧ sideOf v - 8 ≤ c) := by
    unfold NearFinder at h
    rcases mem_finderOrigins.mp ho with rfl | rfl | rfl <;> dsimp only at h <;> omega
  have hinfo : NoInfo v r c := by
    rw [noInfo_iff hv1]
    unfold IsFmtCell IsVerCell
    omega
  have halign : alignLayer v r c = none := (alignLayer_eq_none_iff hv40).mpr fun ar ac hd hnear => by
    have := hnear.clear_of_corners hv40 hd
    omega
  have hsome : finderAt o r c ≠ none := mt finderAt_eq_none_iff.mp (not_not.mpr h)
  rw [funcShade_of_noInfo hinfo, halign, finderLayer_eq_finderAt hn ho h, if_neg hsome]
  rfl

theorem funcShade_separator {r c : Nat}
    (h : (r ≤ 7 ∧ c ≤ 7 ∧ (r = 7 ∨ c = 7)) ∨
      (sideOf v - 8 ≤ r ∧ r < sideOf v ∧ c ≤ 7 ∧ (r = sideOf v - 8 ∨ c = 7)) ∨
      (r ≤ 7 ∧ sideOf v - 8 ≤ c ∧ c < sideOf v ∧ (r = 7 ∨ c = sideOf v - 8))) : funcShade v r c = some .light := by
  have hn := sideOf_ge hv1
  obtain ⟨o, ho, hnear, hedge⟩ : ∃ o ∈ finderOrigins (sideOf v), NearFinder o r c ∧
      (r + 1 = o.1 ∨ r = o.1 + 7 ∨ c + 1 = o.2 ∨ c = o.2 + 7) := by
    unfold NearFinder
    rcases h with h | h | h
    · exact ⟨(0, 0), mem_finderOrigins.mpr (.inl rfl), by dsimp only; omega⟩
    · exact ⟨(sideOf v - 7, 0), mem_finderOrigins.mpr (.inr (.inl rfl)), by dsimp only; omega⟩
    · exact ⟨(0, sideOf v - 7), mem_finderOrigins.mpr (.inr (.inr rfl)), by dsimp only; omega⟩
  rw [funcShade_nearFinder hv1 hv40 ho hnear (by omega) (by omega), finderAt_separator hnear hedge]

theorem funcShade_nearCentre {ar ac : Nat} (hd : isDrawnCentre v ar ac) {r c : Nat} (h : NearCentre ar ac r c) :
    funcShade v r c = alignAt ar ac r c := by
  have hclear := h.clear_of_corners hv40 hd
  have hinfo : NoInfo v r c := by
    rw [noInfo_iff hv1]
    unfold IsFmtCell IsVerCell
    omega
  obtain ⟨x, hx⟩ := Option.ne_none_iff_exists'.mp (mt alignAt_eq_none_iff.mp (not_not.mpr h))
  rw [funcShade_of_noInfo hinfo, alignLayer_eq_alignAt hv40 hd h, hx]
  rfl

theorem funcShade_timingCell {r c : Nat} (h : IsTimingCell (sideOf v) r c) :
    funcShade v r c = some (shadeOf ((r + c) % 2 = 0)) := by
  have hn := sideOf_ge hv1
  by_cases hcentre : ∃ ar ac, isDrawnCentre v ar ac ∧ NearCentre ar ac r c
  · obtain ⟨ar, ac, hd, hnear⟩ := hcentre
    obtain ⟨har2, -, har⟩ := alignPositions_range v hv40 ar hd.1
    obtain ⟨hac2, -, hac⟩ := alignPositions_range v hv40 ac hd.2.1
    rw [funcShade_nearCentre hv1 hv40 hd hnear]
    refine alignAt_through_centre har2 hac2 hnear ?_
    unfold IsTimingCell at h
    unfold NearCentre at hnear
    omega
  · have halign : alignLayer v r c = none :=
      (alignLayer_eq_none_iff hv40).mpr fun ar ac hd hnear => hcentre ⟨ar, ac, hd, hnear⟩
    have hinfo : NoInfo v r c := by
      rw [noInfo_iff hv1]
      unfold IsTimingCell at h
      unfold IsFmtCell IsVerCell
      omega
    have hfinder : finderLayer (sideOf v) r c = none := finderLayer_eq_none_iff.mpr fun o ho hnear => by
      unfold IsTimingCell at h
      unfold NearFinder at hnear
      rcases mem_finderOrigins.mp ho with rfl | rfl | rfl <;> dsimp only at hnear <;> omega
    rw [funcShade_of_noInfo hinfo, if_pos hfinder, halign, timingLayer_eq_some h]
    rfl

/-- The cells the layers answer for are the function cells (R198). -/
theorem funcShade_ne_none_iff {r c : Nat} (hr : r < sideOf v) (hc : c < sideOf v) :
    funcShade v r c ≠ none ↔ isFunctionCell v r c := by
  have hn := sideOf_ge hv1
  have hfinder : finderLayer (sideOf v) r c = none ↔
      ¬ (r ≤ 7 ∧ c ≤ 7) ∧ ¬ (sideOf v - 8 ≤ r ∧ c ≤ 7) ∧ ¬ (r ≤ 7 ∧ sideOf v - 8 ≤ c) := by
    simp only [finderLayer_eq_none_iff, mem_finderOrigins, forall_eq_or_imp, forall_eq, NearFinder]
    omega
  rw [ne_eq, funcShade_eq_none_iff, hfinder, timingLayer_eq_none_iff, alignLayer_eq_none_iff hv40, noInfo_iff hv1]
  unfold isFunctionCell
  by_cases hcentre : ∃ ar ac, isDrawnCentre v ar ac ∧ NearCentre ar ac r c
  · obtain ⟨ar, ac, hd, hnear⟩ := hcentre
    exact iff_of_true (fun ⟨_, _, h, _⟩ => h ar ac hd hnear)
      (.inr (.inr (.inr (.inr (.inr (.inl ⟨ar, ac, hd, hnear⟩))))))
  · have hfar : ∀ ar ac, isDrawnCentre v ar ac → ¬ NearCentre ar ac r c :=
      fun ar ac hd hnear => hcentre ⟨ar, ac, hd, hnear⟩
    unfold NearCentre at hcentre
    simp only [hcentre, eq_true hfar, true_and, false_or]
    unfold IsTimingCell IsFmtCell IsVerCell
    omega

end

/-- Settles O43: each clause reads off the one layer that decides its cells, and the last collects the cells where some
layer answers. -/
theorem functionPatternCells : Obligations.FunctionPatternCells := by
  intro v hv1 hv40
  have hn := sideOf_ge hv1
  refine ⟨fun r c h => ?outside, fun o ho dr dc hr hc => ?finder, fun k hk p hp => ?separator, fun k h8 hk => ?timing,
    fun ar ac hd dr dc hr hc => ?align, fun i hi p hp => ?fmt, fun hv7 i hi p hp => ?ver, ?dark,
    fun r c hr hc => ?cells⟩
  case outside => rw [cell_buildfunc, if_neg (by omega)]
  case finder =>
    have hnear : NearFinder o (o.1 + dr) (o.2 + dc) := by unfold NearFinder; omega
    have ho' : o.1 + 7 ≤ sideOf v ∧ o.2 + 7 ≤ sideOf v := by
      rcases mem_finderOrigins.mp ho with rfl | rfl | rfl <;> dsimp only <;> omega
    have hr' : o.1 + dr < sideOf v := by omega
    have hc' : o.2 + dc < sideOf v := by omega
    refine cell_buildfunc_of_funcShade hr' hc' ?_
    rw [funcShade_nearFinder hv1 hv40 ho hnear hr' hc', finderAt_inside o hr hc]
  case separator =>
    simp only [List.mem_cons, List.not_mem_nil, or_false] at hp
    rcases hp with rfl | rfl | rfl | rfl | rfl | rfl <;>
      exact cell_buildfunc_of_funcShade (by omega) (by omega) (funcShade_separator hv1 hv40 (by omega))
  case timing =>
    have hrow := funcShade_timingCell hv1 hv40 (.inl ⟨rfl, h8, by omega⟩ : IsTimingCell (sideOf v) 6 k)
    have hcol := funcShade_timingCell hv1 hv40 (.inr ⟨rfl, h8, by omega⟩ : IsTimingCell (sideOf v) k 6)
    rw [show (6 + k) % 2 = k % 2 by omega] at hrow
    rw [show (k + 6) % 2 = k % 2 by omega] at hcol
    exact ⟨cell_buildfunc_of_funcShade (by omega) (by omega) hrow,
      cell_buildfunc_of_funcShade (by omega) (by omega) hcol⟩
  case align =>
    have har := (alignPositions_range v hv40 ar hd.1).2.2
    have hac := (alignPositions_range v hv40 ac hd.2.1).2.2
    have hnear : NearCentre ar ac (ar + dr - 2) (ac + dc - 2) := by unfold NearCentre; omega
    obtain ⟨hr', hc', -⟩ := hnear.clear_of_corners hv40 hd
    refine cell_buildfunc_of_funcShade hr' hc' ?_
    rw [funcShade_nearCentre hv1 hv40 hd hnear, alignAt_inside (by omega) (by omega) hr hc]
  case fmt =>
    obtain ⟨r, c⟩ := p
    have hcell := ((mem_fmtCells_iff hn hi).mp hp).1
    obtain ⟨hr, hc⟩ := allFmtCells_bounds (by omega) ((mem_allFmtCells_iff hn).mpr hcell)
    exact cell_buildfunc_of_funcShade hr hc (funcShade_fmtCell hv1 hcell)
  case ver =>
    obtain ⟨r, c⟩ := p
    have hcell := ((mem_verCells_iff hn hi).mp hp).1
    obtain ⟨hr, hc⟩ := allVerCells_bounds ((mem_allVerCells_iff hv1).mpr ⟨hv7, hcell⟩)
    exact cell_buildfunc_of_funcShade hr hc (funcShade_verCell hv1 hv7 hcell)
  case dark =>
    rw [cell_buildfunc, if_pos (by omega)]
    exact funcCell_darkModule rfl (isInfoCell_darkModule hv1)
  case cells =>
    rw [cell_buildfunc, if_pos ⟨hr, hc⟩, func_funcCell_iff, funcShade_ne_none_iff hv1 hv40 hr hc]
    refine ⟨Iff.rfl, fun h => ?_⟩
    rw [funcCell, not_not.mp (mt (funcShade_ne_none_iff hv1 hv40 hr hc).mp h)]

end Sys2Proof.Machine
end

section
/-! PROOFS, matrix family (2 of 3). Where each cell stands in the zig-zag walk (O47). -/

namespace Sys2Proof.Machine

/-! ## How long the walk is -/

/-- The columns still to visit when `col` is the right column of the next pair: `col` and those left of it, but for
column 6. -/
def columnsLeft (col : Nat) : Nat := if 6 ≤ col then col else col + col % 2

/-- The right column of the next pair that is not the timing column (R212). -/
def skipTiming (col : Nat) : Nat := if col = 6 then 5 else col

/-- `col` is the right column of a pair, the timing column, or 0, where the walk ends (R212). -/
def IsWalkColumn (col : Nat) : Prop := (col % 2 = 0 ∧ 6 ≤ col) ∨ (col % 2 = 1 ∧ col ≤ 5) ∨ col = 0

theorem zigzagFrom_succ {n fuel col : Nat} (h0 : col ≠ 0) (up : Bool) : zigzagFrom n (fuel + 1) col up =
    pairVisits n (skipTiming col) up ++ zigzagFrom n fuel (skipTiming col - 2) (!up) := by
  rw [zigzagFrom, if_neg h0]
  rfl

theorem zigzagFrom_zero (n fuel : Nat) (up : Bool) : zigzagFrom n fuel 0 up = [] := by cases fuel <;> rfl

theorem length_pairVisits (n col : Nat) (up : Bool) : (pairVisits n col up).length = 2 * n := by
  cases up <;> simp [pairVisits, mul_comm]

theorem isWalkColumn_next {col : Nat} (h : IsWalkColumn col) : IsWalkColumn (skipTiming col - 2) := by
  unfold IsWalkColumn skipTiming at *
  split_ifs <;> omega

theorem columnsLeft_next {col : Nat} (h : IsWalkColumn col) (h0 : col ≠ 0) :
    columnsLeft col = columnsLeft (skipTiming col - 2) + 2 := by
  unfold IsWalkColumn at h
  unfold columnsLeft skipTiming
  split_ifs <;> omega

theorem length_zigzagFrom {n fuel col : Nat} (up : Bool) (hfuel : col ≤ 2 * fuel) (hcol : IsWalkColumn col) :
    (zigzagFrom n fuel col up).length = n * columnsLeft col := by
  induction fuel generalizing col up with
  | zero =>
    obtain rfl : col = 0 := by omega
    simp [zigzagFrom, columnsLeft]
  | succ fuel ih =>
    by_cases h0 : col = 0
    · simp [h0, zigzagFrom_zero, columnsLeft]
    · have hnext : skipTiming col - 2 ≤ 2 * fuel := by unfold skipTiming; split <;> omega
      rw [zigzagFrom_succ h0, List.length_append, length_pairVisits, ih _ hnext (isWalkColumn_next hcol),
        columnsLeft_next hcol h0]
      ring

theorem isWalkColumn_first {v : Nat} (hv : 1 ≤ v) : IsWalkColumn (sideOf v - 1) := by
  unfold IsWalkColumn sideOf
  omega

theorem length_zigzag {v : Nat} (hv : 1 ≤ v) : (zigzag (sideOf v)).length = sideOf v * (sideOf v - 1) := by
  rw [zigzag, length_zigzagFrom true (by omega) (isWalkColumn_first hv), columnsLeft, if_pos (by unfold sideOf; omega)]

/-! ## What it visits -/

theorem zigzagFrom_not_timing {n fuel col r c : Nat} {up : Bool} (hcol : IsWalkColumn col)
    (h : (r, c) ∈ zigzagFrom n fuel col up) : c ≠ 6 := by
  induction fuel generalizing col up with
  | zero => cases h
  | succ fuel ih =>
    by_cases h0 : col = 0
    · rw [h0, zigzagFrom_zero] at h
      cases h
    · rw [zigzagFrom_succ h0, List.mem_append, mem_pairVisits] at h
      rcases h with ⟨-, h⟩ | h
      · unfold IsWalkColumn at hcol
        unfold skipTiming at h
        split at h <;> omega
      · exact ih (isWalkColumn_next hcol) h

theorem mem_zigzag_iff {v r c : Nat} (hv : 1 ≤ v) :
    (r, c) ∈ zigzag (sideOf v) ↔ r < sideOf v ∧ c < sideOf v ∧ c ≠ 6 := by
  refine ⟨fun h => ?_, fun ⟨hr, hc, h6⟩ => mem_zigzag hr hc h6⟩
  obtain ⟨hr, hc⟩ := zigzag_bounds h
  exact ⟨hr, hc, zigzagFrom_not_timing (isWalkColumn_first hv) h⟩

/-- The walk is as long as the set of the cells it visits is large, so it visits none twice. -/
theorem nodup_zigzag {v : Nat} (hv : 1 ≤ v) : (zigzag (sideOf v)).Nodup := by
  have hcells : (zigzag (sideOf v)).toFinset = Finset.range (sideOf v) ×ˢ (Finset.range (sideOf v)).erase 6 := by
    ext ⟨r, c⟩
    rw [List.mem_toFinset, mem_zigzag_iff hv, Finset.mem_product, Finset.mem_erase, Finset.mem_range, Finset.mem_range]
    tauto
  have h6 : 6 ∈ Finset.range (sideOf v) := Finset.mem_range.mpr (by unfold sideOf; omega)
  refine Multiset.toFinset_card_eq_card_iff_nodup (m := (Multiset.ofList (zigzag (sideOf v)))) |>.mp ?_
  rw [Multiset.coe_card, length_zigzag hv, List.toFinset_coe, hcells, Finset.card_product, Finset.card_erase_of_mem h6,
    Finset.card_range]

/-! ## Where in the walk a cell stands -/

/-- The right column of the pair that column `c` is in (R212). -/
def rightColumn (c : Nat) : Nat := if 6 < c then c + c % 2 else c + 1 - c % 2

/-- The number, from 0 on, of the pair that column `c` is in, in the walk of an `n × n` matrix (R212). -/
def pairNumber (n c : Nat) : Nat :=
  if 6 < c then (n - 1 - rightColumn c) / 2 else (n - 7) / 2 + (5 - rightColumn c) / 2

theorem walkIndex_eq (n r c : Nat) : walkIndex n r c = 2 * n * pairNumber n c +
    (2 * (if pairNumber n c % 2 = 0 then n - 1 - r else r) + (rightColumn c - c)) := Nat.add_assoc _ _ _

/-- The visits of a list of rows, two cells in each. -/
theorem getElem?_flatMap_pair {α β : Type} (f g : α → β) (l : List α) (i : Nat) :
    (l.flatMap fun a => [f a, g a])[2 * i]? = l[i]?.map f ∧
      (l.flatMap fun a => [f a, g a])[2 * i + 1]? = l[i]?.map g := by
  induction l generalizing i with
  | nil => simp
  | cons a l ih =>
    cases i with
    | zero => simp
    | succ i => simpa [Nat.mul_succ] using ih i

theorem getElem?_pairVisits {n col r c : Nat} (up : Bool) (hr : r < n) (hc : c = col ∨ c = col - 1) :
    (pairVisits n col up)[2 * (if up then n - 1 - r else r) + (col - c)]? = some (r, c) := by
  have hrow : (if up then (List.range n).reverse else List.range n)[if up then n - 1 - r else r]? = some r := by
    cases up
    · exact List.getElem?_range hr
    · rw [if_pos rfl, if_pos rfl, List.getElem?_reverse (by rw [List.length_range]; omega), List.length_range,
        Nat.sub_sub_self (by omega), List.getElem?_range hr]
  obtain ⟨hright, hleft⟩ := getElem?_flatMap_pair (fun r => (r, col)) (fun r => (r, col - 1))
    (if up then (List.range n).reverse else List.range n) (if up then n - 1 - r else r)
  rw [hrow] at hright hleft
  rcases hc with rfl | rfl
  · simpa [pairVisits] using hright
  · by_cases h0 : col = 0
    · simpa [pairVisits, h0] using hright
    · simpa [pairVisits, show col - (col - 1) = 1 by omega] using hleft

/-- From the pair with right column `col` on, the walk holds each cell as far behind its place in the whole walk as
that pair's first visit is. -/
theorem getElem?_zigzagFrom {n fuel col r c : Nat} (hn : n % 2 = 1) (hfuel : col ≤ 2 * fuel) (hcol : IsWalkColumn col)
    (hcn : col < n) (hr : r < n) (hc : c ≤ col) (hc0 : col ≠ 0) (h6 : c ≠ 6) {up : Bool}
    (hup : up = decide (pairNumber n (skipTiming col) % 2 = 0)) :
    (zigzagFrom n fuel col up)[walkIndex n r c - 2 * n * pairNumber n (skipTiming col)]? = some (r, c) := by
  induction fuel generalizing col up with
  | zero => omega
  | succ fuel ih =>
    rw [zigzagFrom_succ hc0]
    unfold IsWalkColumn at hcol
    by_cases hpair : c = skipTiming col ∨ c = skipTiming col - 1
    · obtain ⟨hright, hnumber⟩ : rightColumn c = skipTiming col ∧ pairNumber n c = pairNumber n (skipTiming col) := by
        unfold pairNumber rightColumn skipTiming at *
        split_ifs at * <;> omega
      have hvisit := getElem?_pairVisits up hr hpair
      have hlt := (List.getElem?_eq_some_iff.mp hvisit).1
      rw [walkIndex_eq, hright, hnumber, Nat.add_sub_cancel_left]
      subst hup
      simp only [decide_eq_true_eq] at hvisit hlt
      rw [List.getElem?_append_left hlt, hvisit]
    · have hnext : pairNumber n (skipTiming (skipTiming col - 2)) = pairNumber n (skipTiming col) + 1 ∧
          pairNumber n (skipTiming col) + 1 ≤ pairNumber n c := by
        unfold pairNumber rightColumn skipTiming at *
        split_ifs at * <;> omega
      obtain ⟨hnext, hle⟩ := hnext
      obtain ⟨hfuel', hcn', hc', hc0'⟩ : skipTiming col - 2 ≤ 2 * fuel ∧ skipTiming col - 2 < n ∧
          c ≤ skipTiming col - 2 ∧ skipTiming col - 2 ≠ 0 := by
        unfold skipTiming at *
        split_ifs at * <;> omega
      have hup' : (!up) = decide (pairNumber n (skipTiming (skipTiming col - 2)) % 2 = 0) := by
        rw [hup, hnext, ← decide_not]
        exact decide_eq_decide.mpr (by omega)
      have hrest := ih hfuel' (isWalkColumn_next hcol) hcn' hc' hc0' hup'
      rw [hnext] at hrest
      have hmul : 2 * n * (pairNumber n (skipTiming col) + 1) ≤ walkIndex n r c := by
        rw [walkIndex_eq]
        exact (Nat.mul_le_mul_left _ hle).trans (Nat.le_add_right _ _)
      rw [Nat.mul_succ] at hmul hrest
      rw [List.getElem?_append_right (by rw [length_pairVisits]; omega), length_pairVisits, Nat.sub_sub, hrest]

/-- Settles O47: the place of a cell is that in the walk from its first pair on. -/
theorem zigzagVisitsEachCellOnce : Obligations.ZigzagVisitsEachCellOnce := by
  refine fun v hv => ⟨nodup_zigzag hv, length_zigzag hv, fun r c => mem_zigzag_iff hv, fun r c hr hc h6 => ?_⟩
  have hside : sideOf v = 4 * v + 17 := rfl
  have hfirst : pairNumber (sideOf v) (skipTiming (sideOf v - 1)) = 0 := by
    unfold pairNumber rightColumn skipTiming
    split_ifs <;> omega
  have h := getElem?_zigzagFrom (up := true) (fuel := sideOf v) (by omega) (by omega) (isWalkColumn_first hv) (by omega)
    hr (by omega) (by omega) h6 (by rw [hfirst]; rfl)
  rwa [hfirst] at h

end Sys2Proof.Machine
end

section
/-! PROOFS, matrix family (3 of 3). What a placement leaves in each cell, and the commands MINIT, MPLACE and MPRED (O41,
O42, O44 to O46, O48). -/

namespace Sys2Proof.Machine

open Sys2Proof.Encoding

theorem mcell_ext {x y : MCell} (hs : x.shade = y.shade) (hf : x.func = y.func) : x = y := by
  cases x
  cases y
  cases hs
  cases hf
  rfl

/-! ## The bit stream (R211) -/

theorem getD_byteBits_append (b : Byte) (l : List Bool) (k : Nat) : (byteBits b ++ l).getD k false =
    if k < 8 then b.getLsbD (7 - k) else l.getD (k - 8) false := by
  have hlen : (byteBits b).length = 8 := by simp [byteBits]
  split
  case isTrue h =>
    rw [List.getD_append _ _ _ _ (by omega), byteBits, List.getD_eq_getElem?_getD, List.getElem?_map,
      List.getElem?_range h]
    rfl
  case isFalse h => rw [List.getD_append_right _ _ _ _ (by omega), hlen]

/-- Bit `k` of the stream is bit `7 - k mod 8` of codeword `k / 8`, and 0 past the stream (R211, R213). -/
theorem getD_streamBits (cw : List Byte) (k : Nat) :
    (streamBits cw).getD k false = (cw.getD (k / 8) 0).getLsbD (7 - k % 8) := by
  induction cw generalizing k with
  | nil => simp [streamBits]
  | cons b cw ih =>
    rw [streamBits, List.flatMap_cons, getD_byteBits_append]
    split
    case isTrue h => rw [Nat.div_eq_of_lt h, Nat.mod_eq_of_lt h, List.getD_cons_zero]
    case isFalse h =>
      rw [show k / 8 = (k - 8) / 8 + 1 by omega, List.getD_cons_succ, show k % 8 = (k - 8) % 8 by omega]
      exact ih _

theorem getD_codewords (s : State) (i : Nat) :
    (codewords s).getD i 0 = if i < s.cwlen.toNat then readByte (cwBase + i) s else 0 := by
  rw [codewords, readBytes, List.getD_eq_getElem?_getD, List.getElem?_map]
  split
  case isTrue h => rw [List.getElem?_range h]; rfl
  case isFalse h => rw [List.getElem?_eq_none (by simpa using h)]; rfl

/-! ## The walk -/

/-- The walk writes the `k`-th of the UNSET cells it visits with bit `k` of the stream, masked (R217). -/
theorem placeBits_kth {mask : Nat} {ps : List (Nat × Nat)} (hps : ps.Nodup) {bits : List Bool} {m : Matrix}
    {k r c : Nat} (h : (ps.filter fun p => (m.cell p.1 p.2).shade = .unset)[k]? = some (r, c)) :
    (placeBits mask ps bits m).cell r c =
      { m.cell r c with shade := shadeOf (bits.getD k false ^^ maskPred mask r c) } := by
  induction ps generalizing bits m k with
  | nil => simp at h
  | cons p ps ih =>
    obtain ⟨pr, pc⟩ := p
    obtain ⟨hp, hps⟩ := List.nodup_cons.mp hps
    simp only [placeBits]
    split
    case isFalse hset =>
      rw [List.filter_cons_of_neg (by simpa using hset)] at h
      exact ih hps h
    case isTrue hunset =>
      rw [List.filter_cons_of_pos (by simpa using hunset)] at h
      cases k with
      | zero =>
        obtain ⟨rfl, rfl⟩ : pr = r ∧ pc = c := by simpa using h
        rw [placeBits_unvisited _ _ _ _ _ _ hp, cell_setShade, if_pos ⟨rfl, rfl⟩]
        cases bits <;> rfl
      | succ k =>
        have hkeep : ∀ q ∈ ps, ∀ x, (m.setShade pr pc x).cell q.1 q.2 = m.cell q.1 q.2 := fun q hq x => by
          rw [cell_setShade, if_neg]
          rintro ⟨rfl, rfl⟩
          exact hp hq
        rw [List.getElem?_cons_succ] at h
        have hmem : (r, c) ∈ ps := List.mem_of_mem_filter (List.mem_of_getElem? h)
        rw [ih hps (k := k), hkeep _ hmem]
        · cases bits <;> simp
        · rw [← h]
          congr 1
          exact List.filter_congr fun q hq => by rw [hkeep q hq]

/-- The walk keeps a function cell as the words left it (R217). -/
theorem cell_placeall_func {v : Nat} (ec mask : Nat) (cw : List Byte) {m : Matrix} (h : FuncPlaneOk v m) {r c : Nat}
    (hr : r < sideOf v) (hc : c < sideOf v) (hf : (funcCell v r c).func = true) :
    (placeall v ec mask cw m).cell r c = ⟨((writeinfo v ec mask (restore (sideOf v) m)).cell r c).shade, true⟩ := by
  have hcell := (funcPlaneOk_writeinfo ec mask (funcPlaneOk_restore h)).2 r hr c hc
  have hfunc := hcell.func_eq.trans hf
  rw [placeall, placeBits_assigned _ _ _ _ _ _ (hcell.assigned hfunc)]
  exact mcell_ext rfl hfunc

/-! ## The words (R216) -/

/-- A later write of a word does not touch a cell that is none of its cells. -/
theorem cell_writeCells_of_not_mem {word bits : Nat} {cells : Nat → List (Nat × Nat)} {m : Matrix} {r c : Nat}
    (h : ∀ i < bits, (r, c) ∉ cells i) : (writeCells word cells bits m).cell r c = m.cell r c := by
  refine writeCells_induction (P := fun m' => m'.cell r c = m.cell r c) (fun m' p b hp hm => ?_) rfl
  obtain ⟨i, hi, hp⟩ := List.mem_flatMap.mp hp
  rw [cell_setShade, if_neg, hm]
  rintro ⟨rfl, rfl⟩
  exact h i (List.mem_range.mp hi) hp

theorem shade_foldl_setShade_of_mem (x : Shade) {ps : List (Nat × Nat)} (m : Matrix) {r c : Nat} (h : (r, c) ∈ ps) :
    ((ps.foldl (fun m p => m.setShade p.1 p.2 x) m).cell r c).shade = x := by
  induction ps generalizing m with
  | nil => cases h
  | cons p ps ih =>
    rw [List.foldl_cons]
    by_cases hmem : (r, c) ∈ ps
    · exact ih _ hmem
    · obtain rfl : (r, c) = p := (List.mem_cons.mp h).resolve_right hmem
      rw [cell_foldl_setShade_of_not_mem (fun _ => x) _ _ hmem, cell_setShade, if_pos ⟨rfl, rfl⟩]

/-- A cell of bit `i`, and of no other bit, shows that bit of the word. -/
theorem shade_writeCells_of_mem {word bits : Nat} {cells : Nat → List (Nat × Nat)} {m : Matrix} {i r c : Nat}
    (hi : i < bits) (h : (r, c) ∈ cells i) (hother : ∀ j < bits, (r, c) ∈ cells j → j = i) :
    ((writeCells word cells bits m).cell r c).shade = shadeOf (word.testBit i) := by
  induction bits with
  | zero => omega
  | succ bits ih =>
    have hlast : writeCells word cells (bits + 1) m = (cells bits).foldl
        (fun m p => m.setShade p.1 p.2 (shadeOf (word.testBit bits))) (writeCells word cells bits m) := by
      simp only [writeCells, List.range_succ, List.foldl_append, List.foldl_cons, List.foldl_nil]
    rw [hlast]
    by_cases hib : i = bits
    · subst hib
      exact shade_foldl_setShade_of_mem _ _ h
    · have hnot : (r, c) ∉ cells bits := fun hmem => hib (hother bits (by omega) hmem).symm
      rw [cell_foldl_setShade_of_not_mem _ _ _ hnot]
      exact ih (by omega) fun j hj => hother j (by omega)

section
variable {v : Nat} (hv : 1 ≤ v)
include hv

theorem shade_writeinfo_verCell (ec mask : Nat) (m : Matrix) (hv7 : 7 ≤ v) {i : Nat} (hi : i < 18) {r c : Nat}
    (h : (r, c) ∈ verCells (sideOf v) i) :
    ((writeinfo v ec mask m).cell r c).shade = shadeOf ((verword v).testBit i) := by
  have hn := sideOf_ge hv
  simp only [writeinfo, if_pos hv7]
  refine shade_writeCells_of_mem hi h fun j hj hmem => ?_
  exact ((mem_verCells_iff hn hj).mp hmem).2.symm.trans ((mem_verCells_iff hn hi).mp h).2

theorem shade_writeinfo_fmtCell (ec mask : Nat) (m : Matrix) {i : Nat} (hi : i < 15) {r c : Nat}
    (h : (r, c) ∈ fmtCells (sideOf v) i) :
    ((writeinfo v ec mask m).cell r c).shade = shadeOf ((fmtword ec mask).testBit i) := by
  have hn := sideOf_ge hv
  obtain ⟨hcell, hbit⟩ := (mem_fmtCells_iff hn hi).mp h
  unfold IsFmtCell at hcell
  have hdark : ¬ ((darkModule (sideOf v)).1 = r ∧ (darkModule (sideOf v)).2 = c) := by
    dsimp only [darkModule]
    omega
  have hver : ∀ j < 18, (r, c) ∉ verCells (sideOf v) j := fun j hj hmem => by
    have hmem := ((mem_verCells_iff hn hj).mp hmem).1
    unfold IsVerCell at hmem
    omega
  have hword : ((writeCells (fmtword ec mask) (fmtCells (sideOf v)) 15 m).cell r c).shade =
      shadeOf ((fmtword ec mask).testBit i) :=
    shade_writeCells_of_mem hi h fun j hj hmem => ((mem_fmtCells_iff hn hj).mp hmem).2.symm.trans hbit
  simp only [writeinfo]
  split
  · rwa [cell_writeCells_of_not_mem hver, cell_setShade, if_neg hdark]
  · rwa [cell_setShade, if_neg hdark]

/-- What `writeinfo` leaves in a format or version cell does not depend on what stood there. -/
theorem shade_writeinfo_infoCell (ec mask : Nat) {r c : Nat} (h : isInfoCell v r c = true) (m m' : Matrix) :
    ((writeinfo v ec mask m).cell r c).shade = ((writeinfo v ec mask m').cell r c).shade := by
  rcases of_decide_eq_true h with h | h
  · obtain ⟨i, hi, h⟩ := List.mem_flatMap.mp h
    have hi := List.mem_range.mp hi
    rw [shade_writeinfo_fmtCell hv ec mask m hi h, shade_writeinfo_fmtCell hv ec mask m' hi h]
  · have hv7 := ((mem_allVerCells_iff hv).mp h).1
    rw [allVerCells, if_pos hv7] at h
    obtain ⟨i, hi, h⟩ := List.mem_flatMap.mp h
    have hi := List.mem_range.mp hi
    rw [shade_writeinfo_verCell hv ec mask m hv7 hi h, shade_writeinfo_verCell hv ec mask m' hv7 hi h]

/-- A cell that `writeinfo` may write is a function cell. -/
theorem InfoWrite.func {r c : Nat} {b : Bool} (h : InfoWrite v (r, c) b) : (funcCell v r c).func = true := by
  have hn := sideOf_ge hv
  rcases h with h | ⟨h, -⟩ | h
  · rw [funcCell_of_funcShade (funcShade_fmtCell hv ((mem_allFmtCells_iff hn).mp h))]
  · obtain ⟨rfl, rfl⟩ := Prod.mk.inj h
    rw [funcCell_darkModule rfl (isInfoCell_darkModule hv)]
  · obtain ⟨hv7, h⟩ := (mem_allVerCells_iff hv).mp h
    rw [funcCell_of_funcShade (funcShade_verCell hv hv7 h)]

/-! ## The matrix before the walk (R210, R216) -/

theorem matrixOk_restore {m : Matrix} (h : FuncPlaneOk v m) : MatrixOk v false (restore (sideOf v) m) := by
  refine (matrixOk_iff (by omega) false _).mpr ⟨funcPlaneOk_restore h, fun r hr c hc hf => iff_of_true ?_ rfl⟩
  rw [cell_restore] at hf ⊢
  split at hf
  case isTrue hdata => rw [if_pos hdata]
  case isFalse hdata => exact absurd ⟨hr, hc, hf⟩ hdata

theorem matrixOk_writeinfo (ec mask : Nat) {m : Matrix} (h : MatrixOk v false m) :
    MatrixOk v false (writeinfo v ec mask m) := by
  refine writeinfo_induction ec mask (fun m p b hw hm => ?_) h
  obtain ⟨hplane, hdata⟩ := (matrixOk_iff (by omega) false m).mp hm
  refine (matrixOk_iff (by omega) false _).mpr ⟨funcPlaneOk_setShade hw hplane, fun r hr c hc => ?_⟩
  rw [cell_setShade]
  split
  case isFalse => exact hdata r hr c hc
  case isTrue hp =>
    obtain ⟨rfl, rfl⟩ := hp
    intro hf
    have hfunc := (hplane.2 _ hr _ hc).func_eq
    rw [InfoWrite.func hv hw] at hfunc
    exact absurd (hf.symm.trans hfunc) Bool.false_ne_true

/-- What the walk starts from: the words written over the restored matrix. -/
theorem matrixOk_written (ec mask : Nat) {m : Matrix} (h : FuncPlaneOk v m) :
    MatrixOk v false (writeinfo v ec mask (restore (sideOf v) m)) :=
  matrixOk_writeinfo hv ec mask (matrixOk_restore hv h)

/-- What the walk starts from depends on the version, the EC code and the mask alone. -/
theorem writeinfo_restore_congr (ec mask : Nat) {m m' : Matrix} (h : FuncPlaneOk v m) (h' : FuncPlaneOk v m') :
    writeinfo v ec mask (restore (sideOf v) m) = writeinfo v ec mask (restore (sideOf v) m') := by
  obtain ⟨hok, hdata⟩ := (matrixOk_iff (by omega) false _).mp (matrixOk_written hv ec mask h)
  obtain ⟨hok', hdata'⟩ := (matrixOk_iff (by omega) false _).mp (matrixOk_written hv ec mask h')
  refine square_ext hok.1 hok'.1 fun r c hr hc => ?_
  have hcell := hok.2 r hr c hc
  have hcell' := hok'.2 r hr c hc
  by_cases hf : (funcCell v r c).func = true
  · by_cases hi : isInfoCell v r c = true
    · exact mcell_ext (shade_writeinfo_infoCell hv ec mask hi _ _) (hcell.func_eq.trans hcell'.func_eq.symm)
    · have hi := Bool.not_eq_true _ ▸ hi
      rw [hcell.as_drawn (hcell.func_eq.trans hf) hi, hcell'.as_drawn (hcell'.func_eq.trans hf) hi]
  · have hf := Bool.not_eq_true _ ▸ hf
    have hunset := (hdata r hr c hc (hcell.func_eq.trans hf)).mpr rfl
    have hunset' := (hdata' r hr c hc (hcell'.func_eq.trans hf)).mpr rfl
    exact mcell_ext (hunset.trans hunset'.symm) (hcell.func_eq.trans hcell'.func_eq.symm)

/-! ## The matrix after the walk (R217) -/

/-- Two placements over good matrices of a version differ in nothing (R210). -/
theorem placeall_congr (ec mask : Nat) (cw : List Byte) {m m' : Matrix} (h : FuncPlaneOk v m) (h' : FuncPlaneOk v m') :
    placeall v ec mask cw m = placeall v ec mask cw m' := by
  rw [placeall, placeall, writeinfo_restore_congr hv ec mask h h']

theorem cell_placeall_fmtCell (ec mask : Nat) (cw : List Byte) {m : Matrix} (h : FuncPlaneOk v m) {i : Nat}
    (hi : i < 15) {r c : Nat} (hrc : (r, c) ∈ fmtCells (sideOf v) i) :
    (placeall v ec mask cw m).cell r c = ⟨shadeOf ((fmtword ec mask).testBit i), true⟩ := by
  have hmem : (r, c) ∈ allFmtCells (sideOf v) := List.mem_flatMap.mpr ⟨i, List.mem_range.mpr hi, hrc⟩
  have hw : InfoWrite v (r, c) true := .inl hmem
  obtain ⟨hr, hc⟩ := infoWrite_bounds hw
  rw [cell_placeall_func ec mask cw h hr hc (hw.func hv), shade_writeinfo_fmtCell hv ec mask _ hi hrc]

theorem cell_placeall_verCell (ec mask : Nat) (cw : List Byte) {m : Matrix} (h : FuncPlaneOk v m) (hv7 : 7 ≤ v)
    {i : Nat} (hi : i < 18) {r c : Nat} (hrc : (r, c) ∈ verCells (sideOf v) i) :
    (placeall v ec mask cw m).cell r c = ⟨shadeOf ((verword v).testBit i), true⟩ := by
  have hmem : (r, c) ∈ allVerCells v := by
    rw [allVerCells, if_pos hv7]
    exact List.mem_flatMap.mpr ⟨i, List.mem_range.mpr hi, hrc⟩
  have hw : InfoWrite v (r, c) true := .inr (.inr hmem)
  obtain ⟨hr, hc⟩ := infoWrite_bounds hw
  rw [cell_placeall_func ec mask cw h hr hc (hw.func hv), shade_writeinfo_verCell hv ec mask _ hv7 hi hrc]

/-- The data cells of a version, in the order of the walk, are the cells the walk finds UNSET. -/
theorem filter_zigzag_data (ec mask : Nat) {m : Matrix} (h : FuncPlaneOk v m) :
    ((zigzag (sideOf v)).filter fun p => !(m.cell p.1 p.2).func) = (zigzag (sideOf v)).filter fun p =>
      ((writeinfo v ec mask (restore (sideOf v) m)).cell p.1 p.2).shade = .unset := by
  obtain ⟨hok, hdata⟩ := (matrixOk_iff (by omega) false _).mp (matrixOk_written hv ec mask h)
  refine List.filter_congr fun p hp => ?_
  obtain ⟨hr, hc⟩ := zigzag_bounds hp
  have hcell := hok.2 _ hr _ hc
  rw [(h.2 _ hr _ hc).func_eq, ← hcell.func_eq]
  cases hf : ((writeinfo v ec mask (restore (sideOf v) m)).cell p.1 p.2).func
  case false => exact (decide_eq_true ((hdata _ hr _ hc hf).mpr rfl)).symm
  case true => exact (decide_eq_false (hcell.assigned hf)).symm

theorem cell_placeall_data (ec mask : Nat) (cw : List Byte) {m : Matrix} (h : FuncPlaneOk v m) {k r c : Nat}
    (hk : ((zigzag (sideOf v)).filter fun p => !(m.cell p.1 p.2).func)[k]? = some (r, c)) :
    (placeall v ec mask cw m).cell r c =
      ⟨shadeOf ((cw.getD (k / 8) 0).getLsbD (7 - k % 8) ^^ maskPred mask r c), false⟩ := by
  obtain ⟨hmem, hf⟩ := List.mem_filter.mp (List.mem_of_getElem? hk)
  obtain ⟨hr, hc⟩ := zigzag_bounds hmem
  have hfunc := ((funcPlaneOk_writeinfo ec mask (funcPlaneOk_restore h)).2 r hr c hc).func_eq.trans
    (h.2 r hr c hc).func_eq.symm
  rw [filter_zigzag_data hv ec mask h] at hk
  rw [placeall, placeBits_kth (nodup_zigzag hv) hk, getD_streamBits]
  exact mcell_ext rfl (hfunc.trans (by simpa using hf))

end

/-! ## The commands -/

theorem exec_minit_of_legal {s : State} (h : legalVersion (versionOf s) = true) : exec .minit s =
    retire { s with matrix := buildfunc (versionOf s), matVer := s.version, placed := false, maskValid := false } :=
  if_neg (by simp [h])

theorem exec_mplace_of_bad_parameter {s : State} (h : !legalVersion (versionOf s) ∨ s.maskSel.toNat > 7) :
    exec .mplace s = raise .invalidParameter s := if_pos h

theorem exec_mplace_of_other_matrix {s : State} (h : legalVersion (versionOf s) = true) (hm : s.maskSel.toNat ≤ 7)
    (hver : s.matVer ≠ s.version) : exec .mplace s = raise .sequence s := by
  simp only [exec, execMplace]
  rw [if_neg (by simp [h, hm]), if_pos hver]

theorem exec_mplace_of_bad_stream {s : State} (h : legalVersion (versionOf s) = true) (hm : s.maskSel.toNat ≤ 7)
    (hver : s.matVer = s.version) (hlen : s.cwlen.toNat ≠ totalOf (versionOf s)) :
    exec .mplace s = raise .invalidData s := by
  simp only [exec, execMplace]
  rw [if_neg (by simp [h, hm]), if_neg (not_not.mpr hver), if_pos hlen]

/-- The state MPLACE leaves when it places (R215). -/
def afterPlacement (s : State) : State :=
  complete { s with
    matrix := placeall (versionOf s) s.ec.toNat s.maskSel.toNat (codewords s) s.matrix
    placed := true
    maskUsed := BitVec.ofNat 3 s.maskSel.toNat
    maskValid := true
    fmtw := BitVec.ofNat 15 (fmtword s.ec.toNat s.maskSel.toNat)
    verw := BitVec.ofNat 18 (verword (versionOf s)) }

theorem exec_mplace_of_canPlace {s : State} (h : CanPlace s) : exec .mplace s = .next (afterPlacement s) := by
  obtain ⟨hlegal, hm, hver, hlen⟩ := h
  simp only [exec, execMplace]
  rw [if_neg (by simp [hlegal, hm]), if_neg (not_not.mpr hver), if_neg (not_not.mpr hlen)]
  rfl

/-- The matrix a placement starts from is good. -/
theorem CanPlace.matrixOk {s : State} (h : CanPlace s) (hs : s.Inv) : MatrixOk (versionOf s) s.placed s.matrix := by
  obtain ⟨-, -, hver, -⟩ := h
  rw [versionOf, ← hver]
  exact hs.matrix_ok

theorem CanPlace.one_le {s : State} (h : CanPlace s) : 1 ≤ versionOf s := ((legalVersion_iff _).mp h.1).1

theorem CanPlace.funcPlaneOk {s : State} (h : CanPlace s) (hs : s.Inv) : FuncPlaneOk (versionOf s) s.matrix :=
  ((matrixOk_iff (Nat.ne_of_gt h.one_le) _ _).mp (h.matrixOk hs)).1

/-- A cell outside a square matrix holds nothing. -/
theorem cell_outside {n : Nat} {m : Matrix} (hm : Square n m) {r c : Nat} (h : n ≤ r ∨ n ≤ c) :
    m.cell r c = MCell.blank := by
  obtain ⟨hlen, hrows⟩ := hm
  unfold Matrix.cell
  by_cases hr : r < m.length
  · rw [List.getD_eq_getElem _ _ hr]
    exact List.getD_eq_default _ _ (by rw [hrows _ (List.getElem_mem hr)]; omega)
  · rw [List.getD_eq_default m [] (not_lt.mp hr)]
    rfl

theorem maskPred_iff {m : Nat} (hm : m < 8) (i j : Nat) : maskPred m i j = true ↔
    (m = 0 ∧ (i + j) % 2 = 0) ∨ (m = 1 ∧ i % 2 = 0) ∨ (m = 2 ∧ j % 3 = 0) ∨
      (m = 3 ∧ (i + j) % 3 = 0) ∨ (m = 4 ∧ (i / 2 + j / 3) % 2 = 0) ∨
      (m = 5 ∧ i * j % 2 + i * j % 3 = 0) ∨ (m = 6 ∧ (i * j % 2 + i * j % 3) % 2 = 0) ∨
      (m = 7 ∧ (i * j % 3 + (i + j) % 2) % 2 = 0) := by
  interval_cases m <;> simp [maskPred]

/-! ## The statements -/

/-- Settles O41: the truth value is the model's predicate, which has the stated form for each mask number. -/
theorem mpredResult : Obligations.MpredResult := by
  refine fun rd ra rb m hm => ⟨isOnlyWordOf_of_encode (decide_eq_true hm) rfl, fun s => ⟨fun h => if_pos h, ?_⟩⟩
  exact fun hi hj => ⟨maskPred m _ _, maskPred_iff hm _ _, if_neg (by unfold xNat readX; omega)⟩

/-- Settles O42: the two branches of MINIT, by the legality of the version. -/
theorem minitResult : Obligations.MinitResult := by
  refine ⟨isOnlyWordOf_of_encode rfl rfl, fun s => ⟨fun h => ?_, fun h1 h40 => ?_⟩⟩
  · have hbad : legalVersion (versionOf s) = false := by
      rw [Bool.eq_false_iff, ne_eq, legalVersion_iff, versionOf]
      rcases h with h | h
      · rw [h]; decide
      · omega
    exact if_pos (by simp [hbad])
  · exact exec_minit_of_legal ((legalVersion_iff _).mpr ⟨h1, h40⟩)

/-- Settles O44: the four branches of MPLACE, in the order of its checks. -/
theorem mplaceResult : Obligations.MplaceResult := by
  refine ⟨isOnlyWordOf_of_encode rfl rfl, fun s => ⟨fun h => ?_, fun h1 h40 hm => ?_⟩⟩
  · refine exec_mplace_of_bad_parameter ?_
    rw [Bool.not_eq_true', Bool.eq_false_iff, ne_eq, legalVersion_iff, versionOf]
    omega
  · have hlegal : legalVersion (versionOf s) = true := (legalVersion_iff _).mpr ⟨h1, h40⟩
    refine ⟨exec_mplace_of_other_matrix hlegal hm, fun hver => ?_⟩
    refine ⟨exec_mplace_of_bad_stream hlegal hm hver, fun hlen => ?_⟩
    have hmask : s.maskSel.setWidth 3 = BitVec.ofNat 3 s.maskSel.toNat := rfl
    rw [exec_mplace_of_canPlace ⟨hlegal, hm, hver, hlen⟩, afterPlacement, verword, versionOf, hmask]
    split <;> rfl

/-- Settles O45: the data cells are those the walk finds UNSET, and the `k`-th of these takes bit `k` of the stream. -/
theorem placedDataCells : Obligations.PlacedDataCells := by
  intro s hs hplace
  obtain ⟨-, -, -, hlen⟩ := id hplace
  refine ⟨_, exec_mplace_of_canPlace hplace, fun k r c hk => ?_⟩
  have hbit : ((codewords s).getD (k / 8) 0).getLsbD (7 - k % 8) =
      (decide (k < 8 * totalOf (versionOf s)) && (readByte (cwBase + k / 8) s).getLsbD (7 - k % 8)) := by
    rw [getD_codewords, hlen]
    by_cases h : k / 8 < totalOf (versionOf s)
    · rw [if_pos h, decide_eq_true (by omega), Bool.true_and]
    · rw [if_neg h, decide_eq_false (by omega), Bool.false_and]
      exact BitVec.getLsbD_zero
  rw [← hbit]
  exact cell_placeall_data hplace.one_le _ _ _ (hplace.funcPlaneOk hs) hk

/-- Settles O46: the words are written before the walk, which keeps every function cell and assigns every other. -/
theorem placedFunctionCells : Obligations.PlacedFunctionCells := by
  intro s hs hplace
  have hv := hplace.one_le
  have hok := hplace.funcPlaneOk hs
  obtain ⟨hplane, hdata⟩ := (matrixOk_iff (Nat.ne_of_gt hv) true _).mp
    (matrixOk_placeall (Nat.ne_of_gt hv) s.ec.toNat s.maskSel.toNat (codewords s) (hplace.matrixOk hs))
  have hdrawn : ∀ r c, r < sideOf (versionOf s) → c < sideOf (versionOf s) → isInfoCell (versionOf s) r c = false →
      (funcCell (versionOf s) r c).func = true → (afterPlacement s).matrix.cell r c = funcCell (versionOf s) r c :=
    fun r c hr hc hi hf => (hplane.2 r hr c hc).as_drawn ((hplane.2 r hr c hc).func_eq.trans hf) hi
  refine ⟨_, exec_mplace_of_canPlace hplace, fun i hi p hp => ?fmt, fun hv7 i hi p hp => ?ver, ?dark, hdrawn,
    fun r c hr hc => ?inside, fun r c h => ?outside⟩
  case fmt =>
    have hbit : (afterPlacement s).fmtw.getLsbD i = (fmtword s.ec.toNat s.maskSel.toNat).testBit i :=
      (BitVec.getLsbD_ofNat ..).trans (by rw [decide_eq_true hi, Bool.true_and])
    rw [hbit]
    exact cell_placeall_fmtCell hv _ _ _ hok hi hp
  case ver =>
    have hbit : (afterPlacement s).verw.getLsbD i = (verword (versionOf s)).testBit i :=
      (BitVec.getLsbD_ofNat ..).trans (by rw [decide_eq_true hi, Bool.true_and])
    rw [hbit]
    exact cell_placeall_verCell hv _ _ _ hok hv7 hi hp
  case dark =>
    have hdark := funcCell_darkModule rfl (isInfoCell_darkModule hv)
    have hn := sideOf_ge hv
    rw [← hdark]
    exact hdrawn _ _ (by omega) (by omega) (isInfoCell_darkModule hv) (by rw [hdark])
  case inside =>
    cases hf : ((afterPlacement s).matrix.cell r c).func
    case false => exact fun hu => Bool.noConfusion ((hdata r hr c hc hf).mp hu)
    case true => exact (hplane.2 r hr c hc).assigned hf
  case outside => exact cell_outside hplane.1 h

/-- Settles O48: a placed matrix is still good, and from a good one the walk starts with the same cells. -/
theorem repeatedPlacementForgetsTheFirst : Obligations.RepeatedPlacementForgetsTheFirst := by
  intro s m e hs hplace hm
  have hok := hplace.funcPlaneOk hs
  have hv := hplace.one_le
  obtain ⟨hlegal, hmask, hver, hlen⟩ := hplace
  have hfirst : CanPlace { s with maskSel := m, ec := e } := ⟨hlegal, hm, hver, hlen⟩
  refine ⟨_, _, _, exec_mplace_of_canPlace hfirst, exec_mplace_of_canPlace ⟨hlegal, hmask, hver, hlen⟩,
    exec_mplace_of_canPlace ⟨hlegal, hmask, hver, hlen⟩, ?_, rfl, rfl, rfl⟩
  exact placeall_congr hv _ _ _ (funcPlaneOk_placeall _ _ _ hok) hok

end Sys2Proof.Machine
end

section
/-! PROOFS, mask family (1 of 2). The penalty of a picture: its four rules over all rows and columns, its bound, and the
cells it depends on (O50 to O52). -/

namespace Sys2Proof.Machine

/-! ## The runs of a line (R231) -/

theorem runsFrom_replicate_self (b : Bool) (k n : Nat) : runsFrom b k (List.replicate n b) = [k + n] := by
  induction n generalizing k with
  | zero => rfl
  | succ n ih => rw [List.replicate_succ, runsFrom, if_pos rfl, ih, Nat.add_right_comm, Nat.add_assoc]

theorem runsFrom_not_replicate (b : Bool) (k : Nat) {n : Nat} (hn : 1 ≤ n) :
    runsFrom (!b) k (List.replicate n b) = [k, n] := by
  obtain ⟨n, rfl⟩ := Nat.exists_eq_add_of_le' hn
  rw [List.replicate_succ, runsFrom, if_neg (by simp), runsFrom_replicate_self, Nat.add_comm]

/-- A last run is a run of its own. -/
theorem runsFrom_append_replicate (a b : Bool) (k : Nat) (l : List Bool) {n : Nat} (hn : 1 ≤ n) :
    runsFrom a k (l ++ (!b) :: List.replicate n b) = runsFrom a k (l ++ [!b]) ++ [n] := by
  induction l generalizing a k with
  | nil =>
    simp only [List.nil_append, runsFrom]
    split
    case isTrue h => rw [← h, runsFrom_not_replicate b _ hn]; rfl
    case isFalse => rw [runsFrom_not_replicate b _ hn]; rfl
  | cons x l ih =>
    simp only [List.cons_append, runsFrom]
    split
    · exact ih a (k + 1)
    · exact congrArg (k :: ·) (ih x 1)

theorem runLengths_replicate {n : Nat} (hn : 1 ≤ n) (b : Bool) : runLengths (List.replicate n b) = [n] := by
  obtain ⟨n, rfl⟩ := Nat.exists_eq_add_of_le' hn
  rw [List.replicate_succ, runLengths, runsFrom_replicate_self, Nat.add_comm]

theorem runLengths_append_replicate (l : List Bool) (b : Bool) {n : Nat} (hn : 1 ≤ n) :
    runLengths (l ++ [!b] ++ List.replicate n b) = runLengths (l ++ [!b]) ++ [n] := by
  rw [List.append_assoc, List.singleton_append]
  cases l with
  | nil => exact runsFrom_not_replicate b 1 hn
  | cons x l => exact runsFrom_append_replicate x b 1 l hn

theorem runPoints_replicate (n : Nat) (b : Bool) : runPoints (List.replicate n b) = if 5 ≤ n then n - 2 else 0 := by
  cases n with
  | zero => rfl
  | succ n =>
    rw [runPoints, runLengths_replicate (Nat.le_add_left 1 n), List.map_singleton, List.sum_singleton]

theorem runPoints_append_replicate (l : List Bool) (b : Bool) {n : Nat} (hn : 1 ≤ n) :
    runPoints (l ++ [!b] ++ List.replicate n b) = runPoints (l ++ [!b]) + if 5 ≤ n then n - 2 else 0 := by
  rw [runPoints, runLengths_append_replicate l b hn, List.map_append, List.sum_append, List.map_singleton,
    List.sum_singleton, runPoints]

/-- The runs of a line are all of it. -/
theorem sum_runsFrom (b : Bool) (k : Nat) (l : List Bool) : (runsFrom b k l).sum = k + l.length := by
  induction l generalizing b k with
  | nil => rfl
  | cons x l ih =>
    rw [runsFrom]
    split
    · rw [ih, List.length_cons]; omega
    · rw [List.sum_cons, ih, List.length_cons]; omega

theorem sum_runLengths (l : List Bool) : (runLengths l).sum = l.length := by
  cases l with
  | nil => rfl
  | cons x l => rw [runLengths, sum_runsFrom, List.length_cons, Nat.add_comm]

theorem runPoints_le_length (l : List Bool) : runPoints l ≤ l.length := by
  have hpoint : ∀ k ∈ runLengths l, (if 5 ≤ k then k - 2 else 0) ≤ k := fun k _ => by split <;> omega
  calc runPoints l ≤ ((runLengths l).map id).sum := List.sum_le_sum hpoint
    _ = l.length := by rw [List.map_id, sum_runLengths]

/-! ## Counting over rows and columns -/

theorem sum_map_range (n : Nat) (f : Nat → Nat) : ((List.range n).map f).sum = ∑ k ∈ Finset.range n, f k := rfl

theorem countP_range (n : Nat) (p : Nat → Bool) :
    (List.range n).countP p = ((Finset.range n).filter fun k => p k = true).card := by
  rw [← Nat.count_eq_card_filter_range, Nat.count]
  simp only [Bool.decide_coe]

/-- A count row by row counts pairs. -/
theorem sum_countP_range (n k : Nat) (p : Nat → Nat → Bool) :
    ((List.range n).map fun r => (List.range k).countP (p r)).sum =
      ((Finset.range n ×ˢ Finset.range k).filter fun q => p q.1 q.2 = true).card := by
  simp only [sum_map_range, countP_range, Finset.card_filter, Finset.sum_product]

theorem sum_map_linesOf (n : Nat) (g : Nat → Nat → Bool) (f : List Bool → Nat) :
    ((linesOf n g).map f).sum = ∑ k ∈ Finset.range n,
      (f ((List.range n).map fun c => g k c) + f ((List.range n).map fun r => g r k)) := by
  rw [linesOf, List.map_append, List.sum_append, List.map_map, List.map_map, sum_map_range, sum_map_range,
    Finset.sum_add_distrib]
  rfl

/-- A window that equals a pattern lies inside the line (R233). -/
theorem add_le_length_of_window {l p : List Bool} {s n : Nat} (h : (l.drop s).take n = p) (hp : p.length = n)
    (hn : 0 < n) : s + n ≤ l.length := by
  have hlen := congrArg List.length h
  rw [List.length_take, List.length_drop, hp] at hlen
  omega

theorem windowCount_eq_card (l : List Bool) : windowCount l = ((Finset.range l.length).filter fun s =>
    (l.drop s).take 11 = finderLike1 ∨ (l.drop s).take 11 = finderLike2).card := by
  rw [windowCount, countP_range]
  congr 1
  ext s
  simp only [Finset.mem_filter, Finset.mem_range, Bool.or_eq_true, beq_iff_eq]
  refine and_congr_left fun h => ?_
  have hinside : s + 11 ≤ l.length :=
    h.elim (fun h => add_le_length_of_window h rfl (by decide)) fun h => add_le_length_of_window h rfl (by decide)
  omega

theorem windowCount_le_length (l : List Bool) : windowCount l ≤ l.length := by
  rw [windowCount_eq_card]
  exact (Finset.card_filter_le _ _).trans_eq (Finset.card_range _)

/-! ## The four rules (R231 to R234) -/

section
variable (n : Nat) (g : Nat → Nat → Bool)

theorem penalty1_eq : penalty1 n g = ∑ k ∈ Finset.range n,
    (runPoints ((List.range n).map fun c => g k c) + runPoints ((List.range n).map fun r => g r k)) :=
  sum_map_linesOf n g runPoints

theorem penalty2_eq : penalty2 n g = 3 * ((Finset.range (n - 1) ×ˢ Finset.range (n - 1)).filter fun p =>
    g p.1 p.2 = g p.1 (p.2 + 1) ∧ g p.1 p.2 = g (p.1 + 1) p.2 ∧ g p.1 p.2 = g (p.1 + 1) (p.2 + 1)).card := by
  rw [penalty2, sum_countP_range]
  simp only [Bool.and_eq_true, beq_iff_eq, and_assoc]

theorem penalty3_eq : penalty3 n g = 40 * ∑ k ∈ Finset.range n,
    (windowCount ((List.range n).map fun c => g k c) + windowCount ((List.range n).map fun r => g r k)) :=
  congrArg (40 * ·) (sum_map_linesOf n g windowCount)

theorem darkCount_eq :
    darkCount n g = ((Finset.range n ×ˢ Finset.range n).filter fun p => g p.1 p.2 = true).card :=
  sum_countP_range n n g

theorem penalty4_eq : penalty4 n g = 10 *
    ((100 * (((Finset.range n ×ˢ Finset.range n).filter fun p => g p.1 p.2 = true).card : Int) - 50 * (n * n)).natAbs /
      (5 * (n * n))) := by
  rw [penalty4, darkCount_eq, balance, Nat.cast_mul]

/-! ## The bound (R235) -/

theorem sum_lines_le {f : List Bool → Nat} (hf : ∀ l, f l ≤ l.length) : (∑ k ∈ Finset.range n,
    (f ((List.range n).map fun c => g k c) + f ((List.range n).map fun r => g r k))) ≤ n * (n + n) := by
  refine (Finset.sum_le_card_nsmul _ _ (n + n) fun k _ => Nat.add_le_add ?_ ?_).trans_eq ?_
  · simpa using hf ((List.range n).map fun c => g k c)
  · simpa using hf ((List.range n).map fun r => g r k)
  · rw [Finset.card_range, smul_eq_mul]

theorem card_filter_square_le (p : Nat × Nat → Prop) [DecidablePred p] :
    ((Finset.range n ×ˢ Finset.range n).filter p).card ≤ n * n :=
  (Finset.card_filter_le _ _).trans_eq (by rw [Finset.card_product, Finset.card_range])

/-- The dark share is at most the whole, which is 50 percent away from the half. -/
theorem balance_le {d t : Nat} (h : d ≤ t) : balance d t ≤ 100 := by
  have hdistance : (100 * (d : Int) - 50 * t).natAbs / (5 * t) ≤ 10 := Nat.div_le_of_le_mul (by omega)
  rw [balance]
  omega

theorem penaltyOf_le : penaltyOf n g ≤ 85 * (n * n) + 100 := by
  have h1 := sum_lines_le n g runPoints_le_length
  have h2 := (card_filter_square_le (n - 1) fun p =>
    g p.1 p.2 = g p.1 (p.2 + 1) ∧ g p.1 p.2 = g (p.1 + 1) p.2 ∧ g p.1 p.2 = g (p.1 + 1) (p.2 + 1)).trans
      (Nat.mul_le_mul (Nat.sub_le n 1) (Nat.sub_le n 1))
  have h3 := sum_lines_le n g windowCount_le_length
  have h4 : penalty4 n g ≤ 100 := balance_le ((darkCount_eq n g).trans_le (card_filter_square_le n _))
  rw [Nat.mul_add] at h1 h3
  rw [penaltyOf, penalty1_eq, penalty2_eq, penalty3_eq]
  omega

end

/-- Settles O50: a run at the end of a line is one more length, and sums over lists are sums over ranges. -/
theorem penaltyRuleAmounts : Obligations.PenaltyRuleAmounts :=
  ⟨runPoints_replicate, fun l b _ => runPoints_append_replicate l b, rfl, windowCount_eq_card, rfl, by decide, rfl,
    fun n g => ⟨penalty1_eq n g, penalty2_eq n g, penalty3_eq n g, penalty4_eq n g, rfl⟩⟩

theorem penaltyOf_lt {v : Nat} (hv : v ≤ 40) (g : Nat → Nat → Bool) : penaltyOf (sideOf v) g < 2 ^ 32 := by
  have hn : sideOf v ≤ 177 := by unfold sideOf; omega
  have hle := penaltyOf_le (sideOf v) g
  have hsquare := Nat.mul_le_mul hn hn
  omega

/-- Settles O51: the four rules together add at most 85 points per cell and 100. -/
theorem penaltyFits32Bits : Obligations.PenaltyFits32Bits := fun _ hv g => penaltyOf_lt hv g

/-! ## What the penalty depends on (R236) -/

/-- Each rule looks at cells inside the picture only. -/
theorem penaltyOf_congr {n : Nat} {g g' : Nat → Nat → Bool} (h : ∀ r < n, ∀ c < n, g r c = g' r c) :
    penaltyOf n g = penaltyOf n g' := by
  have hlines : linesOf n g = linesOf n g' := by
    refine congrArg₂ (· ++ ·) ?_ ?_ <;> refine List.map_congr_left fun k hk => List.map_congr_left fun j hj => ?_
    · exact h k (List.mem_range.mp hk) j (List.mem_range.mp hj)
    · exact h j (List.mem_range.mp hj) k (List.mem_range.mp hk)
  have hblocks : penalty2 n g = penalty2 n g' := by
    rw [penalty2_eq, penalty2_eq]
    congr 2
    refine Finset.filter_congr fun ⟨r, c⟩ hp => ?_
    rw [Finset.mem_product, Finset.mem_range, Finset.mem_range] at hp
    obtain ⟨hr, hc⟩ : r + 1 < n ∧ c + 1 < n := ⟨Nat.add_lt_of_lt_sub hp.1, Nat.add_lt_of_lt_sub hp.2⟩
    dsimp only
    rw [h r (by omega) c (by omega), h r (by omega) (c + 1) hc, h (r + 1) hr c (by omega), h (r + 1) hr (c + 1) hc]
  have hdark : darkCount n g = darkCount n g' := by
    rw [darkCount_eq, darkCount_eq]
    congr 1
    refine Finset.filter_congr fun p hp => ?_
    rw [Finset.mem_product, Finset.mem_range, Finset.mem_range] at hp
    rw [h _ hp.1 _ hp.2]
  rw [penaltyOf, penaltyOf, penalty1, penalty1, penalty3, penalty3, penalty4, penalty4, hlines, hblocks, hdark]

/-- Settles O52. -/
theorem penaltyDependsOnlyOnTheSymbol : Obligations.PenaltyDependsOnlyOnTheSymbol :=
  fun _ _ _ h => penaltyOf_congr fun r hr c hc => decide_eq_decide.mpr (h r c hr hc)

end Sys2Proof.Machine
end

section
/-! PROOFS, mask family (2 of 2). The commands MSCORE and MBUILD: their outcomes, and which mask MBUILD selects (O49, O53
to O55, O60). -/

namespace Sys2Proof.Machine

/-! ## MSCORE -/

theorem encode_mscore (rd : Fin 8) : encode (.mscore rd) = BitVec.ofNat 32 (0x88000000 + rd.val * 2 ^ 23) := by
  simp [encode, encodeR_zero]

theorem exec_mscore_of_unplaced (rd : Fin 8) {s : State} (h : s.matVer = 0 ∨ s.placed = false) :
    exec (.mscore rd) s = raise .sequence s := if_pos h

theorem exec_mscore_of_placed (rd : Fin 8) {s : State} (hver : s.matVer ≠ 0) (hplaced : s.placed = true) :
    exec (.mscore rd) s = retire (setX rd (BitVec.ofNat 32 (matrixPenalty s.matVer.toNat s.matrix)) s) :=
  if_neg (not_or.mpr ⟨hver, by simp [hplaced]⟩)

/-- Settles O49: the two branches of MSCORE. -/
theorem mscoreResult : Obligations.MscoreResult := fun rd =>
  ⟨isOnlyWordOf_of_encode rfl (encode_mscore rd), fun _ =>
    ⟨exec_mscore_of_unplaced rd, exec_mscore_of_placed rd⟩⟩

/-! ## The least score (R242) -/

/-- The least index of a least entry is that. -/
theorem leastIndex_spec {l : List Nat} (hl : l ≠ []) : leastIndex l < l.length ∧
    (∀ k < l.length, l.getD (leastIndex l) 0 ≤ l.getD k 0) ∧
    ∀ k < leastIndex l, l.getD (leastIndex l) 0 < l.getD k 0 := by
  have hall : ∀ i, l.all (l.getD i 0 ≤ ·) = true ↔ ∀ k < l.length, l.getD i 0 ≤ l.getD k 0 := fun i => by
    simp only [List.all_eq_true, decide_eq_true_eq, List.forall_mem_iff_getElem]
    exact forall₂_congr fun k hk => by rw [List.getD_eq_getElem l 0 hk]
  obtain ⟨i, hi⟩ : ∃ i, (List.range l.length).find? (fun k => l.all (l.getD k 0 ≤ ·)) = some i := by
    obtain ⟨j, hj, hmin⟩ := Finset.exists_min_image (Finset.range l.length) (l.getD · 0)
      ⟨0, Finset.mem_range.mpr (List.length_pos_iff.mpr hl)⟩
    rw [← Option.isSome_iff_exists, List.find?_isSome]
    exact ⟨j, by simpa using hj, (hall j).mpr fun k hk => hmin k (Finset.mem_range.mpr hk)⟩
  have hindex : leastIndex l = i := by rw [leastIndex, hi, Option.getD_some]
  obtain ⟨hleast, hmem, hfirst⟩ := List.find?_range_eq_some.mp hi
  have hlt := List.mem_range.mp hmem
  have hleast := (hall i).mp hleast
  rw [hindex]
  refine ⟨hlt, hleast, fun k hk => Nat.lt_of_not_le fun hle => ?_⟩
  have hk' := hfirst k hk
  rw [(hall k).mpr fun j hj => hle.trans (hleast j hj)] at hk'
  exact Bool.noConfusion hk'

theorem getD_candidateScores {v ec : Nat} {fill : Bool} {cw : List Byte} {k : Nat} (hk : k < 8) :
    (candidateScores v ec fill cw).getD k 0 = candidateScore v ec fill cw k := by
  rw [List.getD_eq_getElem?_getD, candidateScores, List.getElem?_map, List.getElem?_range hk]
  rfl

theorem leastIndex_candidateScores (v ec : Nat) (fill : Bool) (cw : List Byte) :
    let best := leastIndex (candidateScores v ec fill cw)
    best < 8 ∧ (∀ k < 8, candidateScore v ec fill cw best ≤ candidateScore v ec fill cw k) ∧
      ∀ k < best, candidateScore v ec fill cw best < candidateScore v ec fill cw k := by
  have hlen : (candidateScores v ec fill cw).length = 8 := by simp [candidateScores]
  obtain ⟨hlt, hle, hfirst⟩ := leastIndex_spec (List.ne_nil_of_length_eq_add_one hlen)
  rw [hlen] at hlt hle
  refine ⟨hlt, fun k hk => ?_, fun k hk => ?_⟩
  · rw [← getD_candidateScores hlt, ← getD_candidateScores hk]
    exact hle k hk
  · rw [← getD_candidateScores hlt, ← getD_candidateScores (hk.trans hlt)]
    exact hfirst k hk

theorem get_scoreVector (l : List Nat) (k : Fin 8) : (scoreVector l).get k = BitVec.ofNat 32 (l.getD k.val 0) := by
  rw [scoreVector, Vector.get_eq_getElem, Vector.getElem_ofFn]

/-- A score register holds the candidate's penalty, none of which is too large for it. -/
theorem toNat_get_scoreVector {v : Nat} (hv : v ≤ 40) (ec : Nat) (fill : Bool) (cw : List Byte) (k : Fin 8) :
    ((scoreVector (candidateScores v ec fill cw)).get k).toNat = candidateScore v ec fill cw k.val := by
  rw [get_scoreVector, getD_candidateScores k.isLt, BitVec.toNat_ofNat]
  exact Nat.mod_eq_of_lt (penaltyOf_lt hv _)

/-! ## What a candidate's score is (R241) -/

/-- FILL = 1 leaves the format and version cells and the dark module LIGHT, and every other cell as it was. -/
theorem isDark_fillLight (v : Nat) (m : Matrix) (r c : Nat) : isDark (fillLight v m) r c =
    (isDark m r c && !isInfoCell v r c && !decide (r = sideOf v - 8 ∧ c = 8)) := by
  have hlit : (r, c) ∈ allFmtCells (sideOf v) ++ [darkModule (sideOf v)] ++ allVerCells v ↔
      isInfoCell v r c = true ∨ (r = sideOf v - 8 ∧ c = 8) := by
    simp only [isInfoCell, darkModule, List.mem_append, List.mem_singleton, Prod.mk.injEq, decide_eq_true_eq]
    tauto
  by_cases h : (r, c) ∈ allFmtCells (sideOf v) ++ [darkModule (sideOf v)] ++ allVerCells v
  · rw [isDark, fillLight, shade_foldl_setShade_of_mem .light m h]
    rcases hlit.mp h with h | h <;> simp [h]
  · rw [isDark, fillLight, cell_foldl_setShade_of_not_mem (fun _ => .light) _ _ h]
    rw [hlit, not_or, Bool.not_eq_true] at h
    rw [h.1, decide_eq_false h.2, Bool.not_false, Bool.and_true, Bool.and_true, isDark]

theorem candidateScore_unfilled (v ec : Nat) (cw : List Byte) (k : Nat) :
    candidateScore v ec false cw k = penaltyOf (sideOf v) (isDark (placeall v ec k cw (buildfunc v))) := rfl

theorem candidateScore_filled (v ec : Nat) (cw : List Byte) (k : Nat) :
    candidateScore v ec true cw k = penaltyOf (sideOf v) fun r c =>
      isDark (placeall v ec k cw (buildfunc v)) r c && !isInfoCell v r c &&
        !decide (r = sideOf v - 8 ∧ c = 8) :=
  penaltyOf_congr fun r _ c _ => isDark_fillLight v _ r c

/-! ## MBUILD -/

/-- What MBUILD needs to build (R240): a legal version, a fixed or the automatic mask, a stream of the version's
length. -/
def CanBuild (s : State) : Prop :=
  legalVersion (versionOf s) = true ∧ s.maskSel.toNat ≤ 8 ∧ s.cwlen.toNat = totalOf (versionOf s)

/-- The candidate penalties of an MBUILD started in `s` (R242). -/
def scoresOf (s : State) : List Nat := candidateScores (versionOf s) s.ec.toNat s.fill (codewords s)

/-- The mask of an MBUILD started in `s`: the fixed one, or with MASKSEL 8 the selected one (R242). -/
def builtMask (s : State) : Nat := if s.maskSel = 8 then leastIndex (scoresOf s) else s.maskSel.toNat

/-- What an MBUILD started in `s` leaves in SCORE0..7 (R242). -/
def builtScore (s : State) : Vector Word 8 := if s.maskSel = 8 then scoreVector (scoresOf s) else s.score

/-- The state MBUILD leaves when it builds (R242). -/
def afterBuild (s : State) : State := complete { buildWith (builtMask s) s with score := builtScore s }

theorem exec_mbuild_of_bad_parameter {s : State} (h : !legalVersion (versionOf s) ∨ s.maskSel.toNat > 8) :
    exec .mbuild s = raise .invalidParameter s := if_pos h

section
variable {s : State}

theorem exec_mbuild_of_bad_stream (h : legalVersion (versionOf s) = true) (hm : s.maskSel.toNat ≤ 8)
    (hlen : s.cwlen.toNat ≠ totalOf (versionOf s)) : exec .mbuild s = raise .invalidData s := by
  simp only [exec, execMbuild]
  rw [if_neg (by simp [h, hm]), if_pos hlen]

theorem exec_mbuild_of_canBuild (h : CanBuild s) : exec .mbuild s = .next (afterBuild s) := by
  obtain ⟨hlegal, hm, hlen⟩ := h
  simp only [exec, execMbuild, afterBuild, builtMask, builtScore]
  rw [if_neg (by simp [hlegal, hm]), if_neg (not_not.mpr hlen)]
  split <;> rfl

theorem builtMask_of_automatic (h : s.maskSel = 8) : builtMask s = leastIndex (scoresOf s) := if_pos h

theorem builtMask_of_fixed (h : s.maskSel ≠ 8) : builtMask s = s.maskSel.toNat := if_neg h

theorem builtScore_of_automatic (h : s.maskSel = 8) : builtScore s = scoreVector (scoresOf s) := if_pos h

theorem builtScore_of_fixed (h : s.maskSel ≠ 8) : builtScore s = s.score := if_neg h

theorem builtMask_lt (h : s.maskSel.toNat ≤ 8) : builtMask s < 8 := by
  by_cases h8 : s.maskSel = 8
  · rw [builtMask_of_automatic h8]
    exact (leastIndex_candidateScores _ _ _ _).1
  · rw [builtMask_of_fixed h8]
    exact lt_of_le_of_ne h fun e => h8 (BitVec.eq_of_toNat_eq e)

/-- RMASK.MASK holds the mask that was placed. -/
theorem toNat_maskUsed_afterBuild (h : s.maskSel.toNat ≤ 8) : (afterBuild s).maskUsed.toNat = builtMask s :=
  (BitVec.toNat_ofNat ..).trans (Nat.mod_eq_of_lt (builtMask_lt h))

theorem CanBuild.version_le (h : CanBuild s) : versionOf s ≤ 40 := ((legalVersion_iff _).mp h.1).2

theorem canBuild_of_automatic (hlegal : legalVersion (versionOf s) = true) (hm : s.maskSel = 8)
    (hlen : s.cwlen.toNat = totalOf (versionOf s)) : CanBuild s := ⟨hlegal, by rw [hm]; decide, hlen⟩

/-- After an automatic MBUILD, SCOREk is the penalty of candidate k. -/
theorem toNat_score_afterBuild (h : CanBuild s) (hm : s.maskSel = 8) (k : Fin 8) : ((afterBuild s).score.get k).toNat =
    candidateScore (versionOf s) s.ec.toNat s.fill (codewords s) k.val := by
  have hscore : (afterBuild s).score = scoreVector (scoresOf s) := builtScore_of_automatic hm
  rw [hscore]
  exact toNat_get_scoreVector h.version_le _ _ _ k

end

/-- Settles O53: the branches of MBUILD in the order of its checks, a build with the fixed or the selected mask. -/
theorem mbuildResult : Obligations.MbuildResult := by
  refine ⟨isOnlyWordOf_of_encode rfl rfl, fun s => ⟨fun h => ?_, fun h1 h40 hm => ?_⟩⟩
  · refine exec_mbuild_of_bad_parameter ?_
    rw [Bool.not_eq_true', Bool.eq_false_iff, ne_eq, legalVersion_iff, versionOf]
    omega
  · have hlegal : legalVersion (versionOf s) = true := (legalVersion_iff _).mpr ⟨h1, h40⟩
    refine ⟨exec_mbuild_of_bad_stream hlegal hm, fun hlen => ?_⟩
    refine ⟨builtMask s, Nat.le_of_lt_succ (builtMask_lt hm), builtMask_of_fixed, builtMask_of_automatic,
      builtScore s, builtScore_of_fixed, fun h8 k => ?_, ?_⟩
    · rw [builtScore_of_automatic h8]
      exact get_scoreVector _ k
    · rw [exec_mbuild_of_canBuild ⟨hlegal, hm, hlen⟩, afterBuild, buildWith, verword, versionOf]
      split <;> rfl

/-- Settles O54: the scores are the candidates' penalties, and the mask the least index of a least one. -/
theorem mbuildSelectsLeastPenalty : Obligations.MbuildSelectsLeastPenalty := by
  intro s hlegal hm hlen
  have hbuild := canBuild_of_automatic hlegal hm hlen
  have hscore := toNat_score_afterBuild hbuild hm
  have hmask : (afterBuild s).maskUsed.toNat = leastIndex (scoresOf s) :=
    (toNat_maskUsed_afterBuild hbuild.2.1).trans (builtMask_of_automatic hm)
  obtain ⟨-, hle, hfirst⟩ := leastIndex_candidateScores (versionOf s) s.ec.toNat s.fill (codewords s)
  refine ⟨_, exec_mbuild_of_canBuild hbuild, fun k => ?_, fun k hk => ?_⟩
  · simp only [hscore, hmask]
    exact hle k k.isLt
  · simp only [hscore, hmask] at hk ⊢
    exact hfirst k hk

/-- Settles O55: both place the same stream with the same mask over the function patterns. -/
theorem mbuildEqualsMinitThenMplace : Obligations.MbuildEqualsMinitThenMplace := by
  intro s hlegal hm hlen
  have hmask : ((afterBuild s).maskUsed.setWidth 4).toNat = builtMask s := by
    rw [BitVec.toNat_setWidth_of_le (by decide), toNat_maskUsed_afterBuild hm]
  have hlt := builtMask_lt hm
  refine ⟨_, _, _, exec_mbuild_of_canBuild ⟨hlegal, hm, hlen⟩, exec_minit_of_legal hlegal,
    exec_mplace_of_canPlace ⟨hlegal, by dsimp only; omega, rfl, hlen⟩, ?_⟩
  simp only [afterPlacement, complete, hmask]
  exact ⟨rfl, rfl, rfl, rfl, rfl, rfl, rfl⟩

/-- Settles O60: the scores are the candidates' penalties, and with FILL = 0 the chosen candidate is the final matrix. -/
theorem mbuildCandidateScores : Obligations.MbuildCandidateScores := by
  intro s hlegal hm hlen
  have hbuild := canBuild_of_automatic hlegal hm hlen
  have hscore := toNat_score_afterBuild hbuild hm
  refine ⟨_, exec_mbuild_of_canBuild hbuild, fun hfill => ?_, fun hfill k => ?_⟩
  · rw [hfill] at hscore
    refine ⟨hscore, BitVec.eq_of_toNat_eq ?_⟩
    simp only [hscore, toNat_maskUsed_afterBuild hbuild.2.1]
    exact (BitVec.toNat_ofNat ..).trans (Nat.mod_eq_of_lt (penaltyOf_lt hbuild.version_le _))
  · rw [hscore, hfill, candidateScore_filled]

end Sys2Proof.Machine
end

section
/-! PROOFS, exceptions family. How a command ends (R262, R263) and the interrupt line that reports it (R268): O17,
O18. -/

namespace Sys2Proof.Machine

/-! ## The end of a command -/

/-- Settles O18: the two outcomes of `exec_ends`, a success with what `Writes` says of ERR and ERRCODE. -/
theorem commandsCompleteOrFaultPrecisely : Obligations.CommandsCompleteOrFaultPrecisely := by
  intro i s
  rcases exec_ends i s with ⟨code, hcode, e⟩ | ⟨u, e, hu⟩
  · exact ⟨takeFault code s, e, .inl ⟨code, hcode, rfl⟩⟩
  · exact ⟨complete u, e, .inr ⟨rfl, rfl, hu.err, hu.errcode⟩⟩

/-! ## The interrupt line -/

theorem irq_eq_true_iff (s : State) : irq s = true ↔ s.ie = true ∧ s.done = true := Bool.and_eq_true_iff

theorem irq_of_done {s : State} (h : s.done = true) : irq s = s.ie := by rw [irq, h, Bool.and_true]

theorem irq_of_not_done {s : State} (h : s.done = false) : irq s = false := by rw [irq, h, Bool.and_false]

/-- Both completions set DONE and keep IE, so the line follows IE. -/
theorem irq_of_exec {i : Instr} {s t : State} (h : exec i s = .next t) : irq t = s.ie := by
  rcases exec_next h with ⟨code, -, rfl⟩ | ⟨u, rfl, hu⟩
  · exact irq_of_done rfl
  · exact (irq_of_done rfl).trans hu.ie

/-- What the atomic step of a word can be: that of a command, or the fault of an illegal word (R98, R261). -/
theorem runCommand_next {w : Word} {s t : State} (h : runCommand w s = .next t) :
    (∃ i, decode w = .ok i ∧ exec i s = .next t) ∨ t = takeFault .illegalCommand s := by
  unfold runCommand at h
  split at h
  case h_1 i hi => exact .inl ⟨i, hi, h⟩
  case h_2 => cases h; exact .inr rfl

theorem irq_of_runCommand {w : Word} {s t : State} (h : runCommand w s = .next t) : irq t = s.ie := by
  rcases runCommand_next h with ⟨i, -, hi⟩ | rfl
  · exact irq_of_exec hi
  · exact irq_of_done rfl

/-- An acceptance clears DONE (R66). -/
theorem irq_hostWrite_cmd {s : State} (hp : s.pend = none) (w : Word) : irq (hostWrite 0x002 w s) = false := by
  obtain ⟨latency, draws, hwrite⟩ := (commandIssue s w).1 hp
  rw [hwrite]
  exact irq_of_not_done rfl

theorem irq_statusWrite_of_clear_done {w : Word} (h : w.getLsbD 1 = true) (s : State) :
    irq (statusWrite w s) = false := by
  rw [statusWrite_eq_ite]
  exact irq_of_not_done (if_pos h)

/-- Settles O17: the line follows IE where DONE was just set, and is low where DONE was just cleared. -/
theorem interruptLine : Obligations.InterruptLine :=
  ⟨irq_eq_true_iff, fun _ _ _ => irq_of_exec, fun _ _ _ => irq_of_runCommand, fun _ w hp => irq_hostWrite_cmd hp w,
    fun s w h => (congrArg irq (hostWrite_status s w)).trans (irq_statusWrite_of_clear_done h s)⟩

end Sys2Proof.Machine
end

section
/-! PROOFS, reset family. The cycle in which the host asserts reset (R290, R291): O8. -/

namespace Sys2Proof.Machine

theorem cycle_reset (s : State) : cycle .reset s = .next (resetEvent s) := rfl

/-- Pending or not, due or not, no command has a turn in a cycle with a reset (R291, log 7). -/
theorem step_eq_resetEvent {s : State} {rest : List BusOp} (h : s.inbox = .reset :: rest) :
    step s = .next (resetEvent { s with inbox := rest }) := by
  rw [step_eq_cycle, h, List.headD_cons, List.tail_cons, cycle_reset]

/-- Settles O8: the step is the reset event, and the X registers are the free values it draws (log 1). -/
theorem resetAbandonsPendingCommand : Obligations.ResetAbandonsPendingCommand :=
  fun _ _ h => ⟨_, step_eq_resetEvent h⟩

end Sys2Proof.Machine
end
